-- ==== Sys2Proof/Word.lean ====
section
/-! DEFINITION. The word types of the block: the 16-bit request and response word, the byte and the nibble
(00_scope.md R11, 30_encoding.md R80). -/

namespace Sys2Proof

/-- A request word or a response word (30_encoding.md R80, R85). -/
abbrev Word := BitVec 16

/-- An unsigned 8-bit value (00_scope.md R11). -/
abbrev Byte := BitVec 8

/-- An unsigned 4-bit value (00_scope.md R11). -/
abbrev Nibble := BitVec 4

end Sys2Proof
end

