-- ==== Sys2Proof/Config.lean ====
section
/-! DEFINITION. The implementation parameters of 00_scope.md R8 as one record of plain data, and the two free values of
the model that have no body: the port levels of 20_memory.md R54 and the transport's draws of 60_exceptions.md R224. The
default values stand in Machine/Params.lean. NUMFMT is an argument of the expansions that use it (Machine/HostOps.lean,
log 20). -/

namespace Sys2Proof

/-- `PIN_MAP`: the bit position of each driven signal in the expander registers (00_scope.md R8, R9). -/
structure PinMap where
  bl  : Fin 8
  rs  : Fin 8
  e   : Fin 8
  db4 : Fin 8
  db5 : Fin 8
  db6 : Fin 8
  db7 : Fin 8
  deriving DecidableEq, Repr

/-- `READ_MODEL`: what a read of the latch register returns (20_memory.md R54). -/
inductive ReadModel where
  /-- The last written value (the default). -/
  | latch
  /-- Pin levels: a free draw for each input pin. -/
  | port
  deriving DecidableEq, Repr

/-- The parameters of 00_scope.md R8, one field each. Waits are in time units (R8 `T_UNIT`). -/
structure Config where
  /-- `DEV_ADDR`, the 7-bit I2C address of the expander. -/
  devAddr : BitVec 7
  /-- `REG_DIR`, the register id of the direction register. -/
  regDir : Byte
  /-- `REG_LATCH`, the register id of the latch register. -/
  regLatch : Byte
  /-- `PIN_MAP`. -/
  pins : PinMap
  /-- `INIT_DIR_MASK`, the byte of the start-up direction write. -/
  initDirMask : Byte
  /-- `READ_MODEL`. -/
  readModel : ReadModel
  /-- `T_UNIT`, the length of one time unit in microseconds. -/
  tUnit : Nat
  /-- `T_POWER`, the cold-start wait before the first nibble. -/
  tPower : Nat
  /-- `T_S1`, after the first 0x3. -/
  tS1 : Nat
  /-- `T_S2`, after the second 0x3. -/
  tS2 : Nat
  /-- `T_S3`, after the third 0x3. -/
  tS3 : Nat
  /-- `T_S4`, after the 0x2. -/
  tS4 : Nat
  /-- `T_SETUP`, after a nibble's set-up write. -/
  tSetup : Nat
  /-- `T_PULSE`, while E is high. -/
  tPulse : Nat
  /-- `T_HOLD`, after E falls. -/
  tHold : Nat
  /-- `T_INIT_NIB`, each of the four waits of the cold-start nibble. -/
  tInitNib : Nat
  /-- `T_CLEAR_EXTRA`, after the clear-display command; 0 emits no wait. -/
  tClearExtra : Nat
  /-- `CMD_FUNCTION_SET`. -/
  cmdFunctionSet : Byte
  /-- `CMD_DISPLAY_OFF`. -/
  cmdDisplayOff : Byte
  /-- `CMD_CLEAR`. -/
  cmdClear : Byte
  /-- `CMD_ENTRY_MODE`. -/
  cmdEntryMode : Byte
  /-- `CMD_DISPLAY_ON`. -/
  cmdDisplayOn : Byte
  /-- `CMD_SET_CURSOR`, the set-cursor prefix. -/
  cmdSetCursor : Byte
  /-- `LINE_BASE_TOP`. -/
  lineBaseTop : Nat
  /-- `LINE_BASE_BOTTOM`. -/
  lineBaseBottom : Nat
  /-- `COLUMNS`. -/
  columns : Nat
  /-- `LINES`. -/
  lines : Nat
  /-- `DIR_RESET`, the direction register before the block's first access. -/
  dirReset : Byte
  /-- `LATCH_RESET`, the latch register before the block's first access. -/
  latchReset : Byte
  deriving DecidableEq, Repr

/-- The levels on the expander's pins at the `n`-th latch read under `READ_MODEL = port` (20_memory.md R54, 92 D11).
A FREE VALUE: it has no body here, and only its bits at input pins are used (log 3). -/
opaque Config.portDraw : Nat → Byte

/-- The transport's draws from power-on, in the form of `State.failures` (60_exceptions.md R224, 93 I3). A FREE VALUE: it
has no body, so nothing says which transport primitive after reset fails (log 2). -/
opaque Config.transportDraws : List Nat

end Sys2Proof
end

