-- ==== Sys2Proof/Syntax.lean ====
section
/-! DEFINITION. The requests of the block, one constructor per row of spec/opcode_table.json (30_encoding.md R84).
Pin indices and rows are naturals and columns integers, because the spec compares and clamps them on unbounded
integers (00_scope.md R18); their encodable ranges (30_encoding.md R82) are checked in WellFormed.lean (log 19). -/

namespace Sys2Proof

/-- A display line: 0 top, 1 bottom (30_encoding.md R82, 43_host_operations.md R208). -/
inductive Line where
  | top
  | bottom
  deriving DecidableEq, Repr, Inhabited

/-- A request. Operand names are those of 30_encoding.md R82. -/
inductive Instr where
  /-- `SETDIR b`, 40_expander.md R121. -/
  | setdir (b : Byte)
  /-- `PINMODE p, l`, 40_expander.md R123; `l` is `isInput`. -/
  | pinmode (p : Nat) (l : Bool)
  /-- `WRPIN p, l`, 40_expander.md R124; `l` is `high`. -/
  | wrpin (p : Nat) (l : Bool)
  /-- `RDLATCH`, 40_expander.md R125. -/
  | rdlatch
  /-- `WRLATCH b`, 40_expander.md R126. -/
  | wrlatch (b : Byte)
  /-- `NIBBLE n`, 41_parallel_bus.md R141. -/
  | nibble (n : Nibble)
  /-- `NIBINIT n`, 41_parallel_bus.md R142. -/
  | nibinit (n : Nibble)
  /-- `SENDBYTE b, m`, 41_parallel_bus.md R143; `m` is the RS mode, false command, true data. -/
  | sendbyte (b : Byte) (m : Bool)
  /-- `SENDCMD b`, 42_controller.md R171. -/
  | sendcmd (b : Byte)
  /-- `SENDCHAR b`, 42_controller.md R172. -/
  | sendchar (b : Byte)
  /-- `INIT`, 42_controller.md R176. -/
  | init
  /-- `SETCURSOR r, c`, 42_controller.md R180. -/
  | setcursor (r : Nat) (c : Int)
  /-- `LINESEL l`, 42_controller.md R181. -/
  | linesel (l : Line)
  /-- `LINESEL cur`, 42_controller.md R181. -/
  | lineselCur
  /-- `CLEAR`, 43_host_operations.md R201. -/
  | clear
  /-- `CLEARLINE l`, 43_host_operations.md R202. -/
  | clearline (l : Line)
  deriving DecidableEq, Repr

end Sys2Proof
end

