-- ==== Sys2Proof/WellFormed.lean ====
section
/-! DEFINITION. Well-formedness: the operand ranges a request word can carry (30_encoding.md R82) and the constraints
the spec puts on its parameters (00_scope.md R8, R9; 70_reset_and_hazards.md R275). -/

namespace Sys2Proof

/-- A pin index or row fits its 4-bit field (30_encoding.md R81, R82). -/
def fitsNibble (n : Nat) : Bool := decide (n ≤ 15)

/-- A column fits its signed 8-bit field: −128..127 (30_encoding.md R82). -/
def fitsColumn (c : Int) : Bool := decide (-128 ≤ c) && decide (c ≤ 127)

/-- The request has an encoding: every operand is in the range its field carries (30_encoding.md R82). -/
def Instr.wellFormed : Instr → Bool
  | .setdir _      => true
  | .pinmode p _   => fitsNibble p
  | .wrpin p _     => fitsNibble p
  | .rdlatch       => true
  | .wrlatch _     => true
  | .nibble _      => true
  | .nibinit _     => true
  | .sendbyte _ _  => true
  | .sendcmd _     => true
  | .sendchar _    => true
  | .init          => true
  | .setcursor r c => fitsNibble r && fitsColumn c
  | .linesel _     => true
  | .lineselCur    => true
  | .clear         => true
  | .clearline _   => true

/-- The seven positions of `PIN_MAP`, in the order BL, RS, E, DB4..DB7. -/
def PinMap.positions (p : PinMap) : List (Fin 8) := [p.bl, p.rs, p.e, p.db4, p.db5, p.db6, p.db7]

/-- `PIN_MAP` gives seven pairwise distinct positions (00_scope.md R9). -/
def PinMap.distinct (p : PinMap) : Bool := decide p.positions.Nodup

/-- The expander's address is in the 0x20 class and its two registers have ids of their own
(00_scope.md R8, 92 D26, 20_memory.md R51). -/
def Config.addressesOk (c : Config) : Bool :=
  decide (0x20 ≤ c.devAddr.toNat) && decide (c.devAddr.toNat ≤ 0x27) && decide (c.regDir ≠ c.regLatch)

/-- Each wait is at least the spec's lower bound for its place, and a time unit is not empty (00_scope.md R8;
70_reset_and_hazards.md R260, R275). -/
def Config.waitsOk (c : Config) : Bool :=
  decide (100000 ≤ c.tPower) && decide (100000 ≤ c.tS1) && decide (4100 ≤ c.tS2) && decide (100 ≤ c.tS3) &&
  decide (100 ≤ c.tS4) && decide (1 ≤ c.tSetup) && decide (1 ≤ c.tPulse) && decide (100 ≤ c.tHold) &&
  decide (1 ≤ c.tInitNib) && decide (1 ≤ c.tUnit)

/-- The display is 2×16 and every position fits in 7 bits (00_scope.md R6, R8; 42_controller.md R179). -/
def Config.geometryOk (c : Config) : Bool :=
  decide (c.columns = 16) && decide (c.lines = 2) &&
  decide (c.lineBaseTop + 15 < 128) && decide (c.lineBaseBottom + 15 < 128)

/-- The parameters meet the spec's constraints (log 18). -/
def Config.wellFormed (c : Config) : Bool :=
  c.pins.distinct && c.addressesOk && c.waitsOk && c.geometryOk

end Sys2Proof
end

