-- ==== Sys2Proof/Decode.lean ====
section
/-! DEFINITION. The request word: a total decoder that rejects by name, and the encoder written from the same tables
(30_encoding.md R80–R84). A word is cut once into its opcode [15:12], its middle field [11:8] and its low byte [7:0]. -/

namespace Sys2Proof

/-- Why a word is an illegal request (30_encoding.md R83). -/
inductive Reject where
  /-- The opcode is 0x0. -/
  | opcodeZero
  /-- A reserved bit of the format is not zero. -/
  | reservedBits
  /-- The word 0xD003: LINESEL with q = 1 and l = 1. -/
  | lineselCurWithLine
  deriving DecidableEq, Repr

/-- The line a bit selects: 0 top, 1 bottom (30_encoding.md R82). -/
def Line.ofBit (b : Bool) : Line := if b then .bottom else .top

/-- The bit that selects a line (30_encoding.md R82). -/
def Line.toBit : Line → Bool
  | .top    => false
  | .bottom => true

/-- The low byte that carries one bit `l` at [0]. -/
def bitByte (l : Bool) : Byte := if l then 1#8 else 0#8

/-- Opcode [15:12], middle field [11:8], low byte [7:0] (30_encoding.md R80, R81). -/
structure Fields where
  op : Nibble
  hi : Nibble
  lo : Byte
  deriving DecidableEq, Repr

def Fields.ofWord (w : Word) : Fields :=
  { op := w.extractLsb' 12 4, hi := w.extractLsb' 8 4, lo := w.extractLsb' 0 8 }

def Fields.toWord (f : Fields) : Word := f.op ++ f.hi ++ f.lo

/-- Accept `i` when the reserved bits are zero, else reject by name (30_encoding.md R83). -/
def whenReservedZero (zero : Bool) (i : Instr) : Except Reject Instr :=
  if zero then .ok i else .error .reservedBits

/-- `F_NONE`: bits [11:0] reserved. -/
def decodeNone (f : Fields) (i : Instr) : Except Reject Instr :=
  whenReservedZero (decide (f.hi = 0#4) && decide (f.lo = 0#8)) i

/-- `F_B8`: bits [11:8] reserved, b at [7:0]. -/
def decodeB8 (f : Fields) (k : Byte → Instr) : Except Reject Instr :=
  whenReservedZero (decide (f.hi = 0#4)) (k f.lo)

/-- `F_PIN`: p at [11:8], bits [7:1] reserved, l at [0]. -/
def decodePin (f : Fields) (k : Nat → Bool → Instr) : Except Reject Instr :=
  whenReservedZero (decide (f.lo &&& 0xFE#8 = 0#8)) (k f.hi.toNat (f.lo.getLsbD 0))

/-- `F_N4`: bits [11:4] reserved, n at [3:0]. -/
def decodeN4 (f : Fields) (k : Nibble → Instr) : Except Reject Instr :=
  whenReservedZero (decide (f.hi = 0#4) && decide (f.lo &&& 0xF0#8 = 0#8)) (k (f.lo.extractLsb' 0 4))

/-- `F_RSB`: bits [11:9] reserved, m at [8], b at [7:0]. -/
def decodeRsb (f : Fields) (k : Byte → Bool → Instr) : Except Reject Instr :=
  whenReservedZero (decide (f.hi &&& 0xE#4 = 0#4)) (k f.lo (f.hi.getLsbD 0))

/-- `F_CUR`: r at [11:8], signed c at [7:0]; no reserved bits. -/
def decodeCur (f : Fields) (k : Nat → Int → Instr) : Except Reject Instr :=
  .ok (k f.hi.toNat f.lo.toInt)

/-- `F_LINE`: bits [11:1] reserved, l at [0]. -/
def decodeLine (f : Fields) (k : Line → Instr) : Except Reject Instr :=
  whenReservedZero (decide (f.hi = 0#4) && decide (f.lo &&& 0xFE#8 = 0#8)) (k (Line.ofBit (f.lo.getLsbD 0)))

/-- `F_LSEL`: bits [11:2] reserved, q at [1], l at [0]; q = 1 with l = 1 is illegal (30_encoding.md R82, R83). -/
def decodeLsel (f : Fields) : Except Reject Instr :=
  if f.hi ≠ 0#4 ∨ f.lo &&& 0xFC#8 ≠ 0#8 then .error .reservedBits
  else if f.lo.getLsbD 1 then
    if f.lo.getLsbD 0 then .error .lineselCurWithLine else .ok .lineselCur
  else .ok (.linesel (Line.ofBit (f.lo.getLsbD 0)))

/-- The opcode map of 30_encoding.md R84. -/
def decodeFields (f : Fields) : Except Reject Instr :=
  match f.op.toNat with
  | 0x1 => decodeB8 f .setdir
  | 0x2 => decodePin f .pinmode
  | 0x3 => decodePin f .wrpin
  | 0x4 => decodeNone f .rdlatch
  | 0x5 => decodeB8 f .wrlatch
  | 0x6 => decodeN4 f .nibble
  | 0x7 => decodeN4 f .nibinit
  | 0x8 => decodeRsb f .sendbyte
  | 0x9 => decodeB8 f .sendcmd
  | 0xA => decodeB8 f .sendchar
  | 0xB => decodeNone f .init
  | 0xC => decodeCur f .setcursor
  | 0xD => decodeLsel f
  | 0xE => decodeNone f .clear
  | 0xF => decodeLine f .clearline
  | _   => .error .opcodeZero

/-- The decoder, total on every word. -/
def decode (w : Word) : Except Reject Instr := decodeFields (Fields.ofWord w)

/-- The fields of a request's word (30_encoding.md R81, R82, R84). -/
def encodeFields : Instr → Fields
  | .setdir b      => { op := 0x1, hi := 0, lo := b }
  | .pinmode p l   => { op := 0x2, hi := BitVec.ofNat 4 p, lo := bitByte l }
  | .wrpin p l     => { op := 0x3, hi := BitVec.ofNat 4 p, lo := bitByte l }
  | .rdlatch       => { op := 0x4, hi := 0, lo := 0 }
  | .wrlatch b     => { op := 0x5, hi := 0, lo := b }
  | .nibble n      => { op := 0x6, hi := 0, lo := 0#4 ++ n }
  | .nibinit n     => { op := 0x7, hi := 0, lo := 0#4 ++ n }
  | .sendbyte b m  => { op := 0x8, hi := if m then 1 else 0, lo := b }
  | .sendcmd b     => { op := 0x9, hi := 0, lo := b }
  | .sendchar b    => { op := 0xA, hi := 0, lo := b }
  | .init          => { op := 0xB, hi := 0, lo := 0 }
  | .setcursor r c => { op := 0xC, hi := BitVec.ofNat 4 r, lo := BitVec.ofInt 8 c }
  | .linesel l     => { op := 0xD, hi := 0, lo := bitByte l.toBit }
  | .lineselCur    => { op := 0xD, hi := 0, lo := 2 }
  | .clear         => { op := 0xE, hi := 0, lo := 0 }
  | .clearline l   => { op := 0xF, hi := 0, lo := bitByte l.toBit }

/-- The word of a well-formed request (30_encoding.md R81, R84). -/
def encode (i : Instr) : Word := (encodeFields i).toWord

/-- The word whose bits, numbered as spec/opcode_table.json numbers them, are `w` cut to `nbits` bits. Every row of
the table is one 16-bit word (log 23). -/
def tableWord (nbits w : Nat) : Word := BitVec.ofNat 16 (w % 2 ^ nbits)

/-- The instruction the decoder reads from a table row's word. -/
def decodeTableWord (nbits w : Nat) : Option Instr :=
  match decode (tableWord nbits w) with
  | .ok i    => some i
  | .error _ => none

end Sys2Proof
end

