-- ==== Sys2Proof/Machine/Params.lean ====
section
/-! DEFINITION. The default parameter values of 00_scope.md R8. -/

namespace Sys2Proof.Machine

/-- The default `PIN_MAP` (00_scope.md R8, 92 D2). Bit 0 is unused. -/
def defaultPins : PinMap := { bl := 7, rs := 1, e := 2, db4 := 3, db5 := 4, db6 := 5, db7 := 6 }

/-- Every parameter at its default (00_scope.md R8). `DIR_RESET` and `LATCH_RESET` are OPEN there; the values here
are those of the test vectors, the MCP23008's (PRESUMED, log 4). -/
def defaultConfig : Config :=
  { devAddr := 0x20, regDir := 0x00, regLatch := 0x09, pins := defaultPins, initDirMask := 0xFF,
    readModel := .latch, tUnit := 1,
    tPower := 100000, tS1 := 100000, tS2 := 4100, tS3 := 100, tS4 := 100,
    tSetup := 1, tPulse := 1, tHold := 100, tInitNib := 1, tClearExtra := 0,
    cmdFunctionSet := 0x28, cmdDisplayOff := 0x08, cmdClear := 0x01, cmdEntryMode := 0x06, cmdDisplayOn := 0x0C,
    cmdSetCursor := 0x80, lineBaseTop := 0x00, lineBaseBottom := 0x40, columns := 16, lines := 2,
    dirReset := 0xFF, latchReset := 0x00 }

end Sys2Proof.Machine
end

