-- ==== Sys2Proof/Machine/State.lean ====
section
/-! DEFINITION. The state of the block as plain data (10_state.md), the statements a request expands to, the reasons a
step can stop, and the state after power-on reset. -/

namespace Sys2Proof.Machine

/-- `S.phase` (10_state.md R25). -/
inductive Phase where
  | idle
  | busy
  | faulted
  deriving DecidableEq, Repr

/-- The states of the cold-start state machine (42_controller.md R173). -/
inductive Stage where
  | unpowered
  | forced8bit
  | switchTo4bit
  | configured
  | ready
  deriving DecidableEq, Repr

/-- The two registers of the expander that the block reaches (10_state.md R29, 20_memory.md R51, log 25). -/
inductive Reg where
  | dir
  | latch
  deriving DecidableEq, Repr

/-- The expander's registers `X.DIR` and `X.LATCH` (10_state.md R29). -/
structure Expander where
  dir   : Byte
  latch : Byte
  deriving DecidableEq, Repr

/-- A primitive as it stands in the trace (00_scope.md R14, 10_state.md R31). -/
inductive Action where
  /-- `RD(r, v)`: register id `r` read, byte `v`. -/
  | rd (r v : Byte)
  /-- `WR(r, v)`: byte `v` written to register id `r`. -/
  | wr (r v : Byte)
  /-- `WB(b0, b1)`: buffer write of register id `b0` and byte `b1`. -/
  | wb (b0 b1 : Byte)
  /-- `WAIT(n)`: a wait of at least `n` time units. -/
  | wait (n : Nat)
  deriving DecidableEq, Repr

/-- An event of the trace, possibly marked `!fail` (10_state.md R31). -/
structure Event where
  action : Action
  failed : Bool
  deriving DecidableEq, Repr

/-- The cause codes by name (60_exceptions.md R221). -/
inductive Cause where
  | ok
  | transportFault
  | illegalRequest
  deriving DecidableEq, Repr

/-- The kind of a failing event (10_state.md R26). -/
inductive Kind where
  | rd
  | wr
  | wb
  deriving DecidableEq, Repr

/-- What `S.fault` records: the cause and the failing event's kind, register id and value written, if any
(10_state.md R26, 60_exceptions.md R221). -/
structure FaultRecord where
  cause   : Cause
  kind    : Kind
  reg     : Byte
  written : Option Byte
  deriving DecidableEq, Repr

/-- One statement of a request's expansion (10_state.md R27; the pseudocode of files 40 to 43). The first six are the
primitives of 00_scope.md R14; the others write a block register and emit no event. -/
inductive Micro where
  /-- `W <- MemRead(r, 1)`. -/
  | read (r : Reg)
  /-- `MemWrite(r, 1, W)`. -/
  | writeW (r : Reg)
  /-- `MemWrite(r, 1, setbit(W, p, l))`; `W` keeps its value. -/
  | writeWBit (r : Reg) (p : Nat) (l : Bool)
  /-- `MemWrite(r, 1, b)`. -/
  | writeByte (r : Reg) (b : Byte)
  /-- `MemWriteBuf([r, b])`. -/
  | writeBuf (r : Reg) (b : Byte)
  /-- `Wait(n)`. -/
  | wait (n : Nat)
  /-- `W <- setbit(W, p, l)`. -/
  | setW (p : Nat) (l : Bool)
  /-- The label of a cold-start state (42_controller.md R174). -/
  | enter (st : Stage)
  /-- `S.initialized <- true`. -/
  | setInitialized
  /-- `S.currentLine <- l`. -/
  | setLine (l : Line)
  /-- `RESP <- (OK, 0x00)`. -/
  | respond
  /-- `RESP <- (OK, W)`. -/
  | respondW
  deriving DecidableEq, Repr

/-- The step position: the request being executed, its expansion, and how many statements of it have been executed
(10_state.md R27, log 27). -/
structure Position where
  request   : Instr
  expansion : List Micro
  next      : Nat
  deriving DecidableEq, Repr

/-- A move of the host (60_exceptions.md R231). -/
inductive HostMove where
  /-- Offer a request word. -/
  | request (w : Word)
  /-- Reset the block (70_reset_and_hazards.md R250). -/
  | blockReset
  deriving DecidableEq, Repr

/-- The machine. Every field but `failures` and `draws` is the spec's; `cfg` is fixed (00_scope.md R8, log 1). -/
structure State where
  /-- The parameters of 00_scope.md R8. No step writes them. -/
  cfg : Config
  /-- `S.initialized` (10_state.md R22). -/
  initialized : Bool
  /-- `S.currentLine` (10_state.md R23). -/
  currentLine : Line
  /-- `S.phase` (10_state.md R25). -/
  phase : Phase
  /-- `S.fault` (10_state.md R26). -/
  fault : Option FaultRecord
  /-- `W`, the working image (10_state.md R24, log 5). -/
  w : Byte
  /-- `RESP` (10_state.md R28, log 6). -/
  resp : Word
  /-- The step position, none when no request is being executed (10_state.md R27). -/
  position : Option Position
  /-- `X.DIR` and `X.LATCH` (10_state.md R29). -/
  x : Expander
  /-- The trace, oldest event first (10_state.md R31). -/
  trace : List Event
  /-- The host's coming moves, the next one first (60_exceptions.md R231, log 10). -/
  host : List HostMove
  /-- FREE VALUE of the model: the transport's coming failures. The first number counts the transport primitives that
  succeed before the next one that fails, and so on; an empty list means no further failure. At reset it is the opaque
  `Config.transportDraws` (60_exceptions.md R224, log 2). -/
  failures : List Nat
  /-- Counter of the model: the port-level draws taken so far (20_memory.md R54, log 3). -/
  draws : Nat
  deriving DecidableEq, Repr

/-- The machine stops. -/
inductive Fault where
  /-- Raised by `step`, and by every request offered directly, while the block is FAULTED and the host does not reset
  it: "FAULTED is terminal: the block accepts no further request" (60_exceptions.md R229, 93 I18 "stuck"). SAFE. -/
  | faulted
  /-- Raised by a request offered to `exec` while the block is BUSY with another one: "A request is accepted only while
  S.phase = IDLE" (60_exceptions.md R234, 93 I17). No step reaches such a state. SAFE. -/
  | busy
  deriving DecidableEq, Repr

/-- No meaning for the instruction. -/
inductive Refusal where
  /-- Raised by `exec` for an instruction without a meaning; no arm raises it. SAFE. -/
  | notModelled (mnemonic : String)
  deriving DecidableEq, Repr

/-- The machine at power-on with the parameters `c`: the reset values of 70_reset_and_hazards.md R251, with the
expander at `DIR_RESET` and `LATCH_RESET` (R252) and the transport's draws free (log 2). `W` and `RESP` have no value there; they are zero here (DESIGN
CHOICE, logs 5 and 6). -/
def State.powerOn (c : Config) : State :=
  { cfg := c, initialized := false, currentLine := .top, phase := .idle, fault := none, w := 0, resp := 0,
    position := none, x := { dir := c.dirReset, latch := c.latchReset }, trace := [], host := [],
    failures := Config.transportDraws, draws := 0 }

/-- The machine right after reset, with the default parameters. -/
def State.reset : State := State.powerOn defaultConfig

end Sys2Proof.Machine
end

