-- ==== Sys2Proof/Machine/Operands.lean ====
section
/-! DEFINITION. Operand forms and the block's whole arithmetic: bit replacement, nibble extraction and placement, the
column clamp, the position sum and the set-cursor byte (00_scope.md R11, R18; 30_encoding.md R88–R91; 42_controller.md
R178, R179). -/

namespace Sys2Proof.Machine

/-- `setbit(v, p, l)` = `(v & ~(1 << p)) | (l << p)` within 8 bits (00_scope.md R11, R18). -/
def setbit (v : Byte) (p : Nat) (l : Bool) : Byte := (v &&& ~~~(1#8 <<< p)) ||| (bitByte l <<< p)

/-- `b[7:4]` (30_encoding.md R89). -/
def highNibble (b : Byte) : Nibble := b.extractLsb' 4 4

/-- `b[3:0]` (30_encoding.md R89). -/
def lowNibble (b : Byte) : Nibble := b.extractLsb' 0 4

/-- `clampedColumn(c)` for a display of `columns` columns (42_controller.md R178). -/
def clampedColumn (columns : Nat) (c : Int) : Nat :=
  if c ≤ 0 then 0 else if c ≤ (columns : Int) - 1 then c.toNat else columns - 1

/-- The start position of the line that `row` selects: bottom exactly when `row > 0` (42_controller.md R179). -/
def lineBase (c : Config) (row : Int) : Nat := if row > 0 then c.lineBaseBottom else c.lineBaseTop

/-- `position(row, column)` (42_controller.md R179). -/
def position (c : Config) (row column : Int) : Nat := lineBase c row + clampedColumn c.columns column

/-- The row of a line: top 0, bottom 1 (43_host_operations.md R208). -/
def lineRow (l : Line) : Int := if l.toBit then 1 else 0

/-- The set-cursor command byte `CMD_SET_CURSOR | position` (30_encoding.md R91; the position has 7 bits, log 26). -/
def cursorByte (c : Config) (row column : Int) : Byte := c.cmdSetCursor ||| BitVec.ofNat 8 (position c row column)

/-- The register id of a register (20_memory.md R51). -/
def regId (c : Config) : Reg → Byte
  | .dir   => c.regDir
  | .latch => c.regLatch

/-- `P.DB(k)`, k = 0..3, in order (00_scope.md R9). -/
def dataPins (p : PinMap) : List (Fin 8) := [p.db4, p.db5, p.db6, p.db7]

/-- The six LCD lines in the order the cold start makes them outputs (42_controller.md R174). -/
def lcdPins (p : PinMap) : List (Fin 8) := [p.rs, p.e, p.db4, p.db5, p.db6, p.db7]

/-- Nibble placement: `for k in 0..3: W <- setbit(W, P.DB(k), n[k])` (30_encoding.md R88). -/
def placeNibble (p : PinMap) (v : Byte) (n : Nibble) : Byte :=
  setbit (setbit (setbit (setbit v p.db4 (n.getLsbD 0)) p.db5 (n.getLsbD 1)) p.db6 (n.getLsbD 2)) p.db7 (n.getLsbD 3)

/-- The latch image of a nibble's set-up write: data placed, E forced low (41_parallel_bus.md R141). -/
def nibbleImage (p : PinMap) (v : Byte) (n : Nibble) : Byte := setbit (placeNibble p v n) p.e false

end Sys2Proof.Machine
end

