-- ==== Sys2Proof/Machine/Flags.lean ====
section
/-! DEFINITION. The session flags and the response register. The block has no condition codes (10_state.md R34): its
only flags are `S.initialized` and `S.currentLine`, and its status is the high byte of `RESP` (30_encoding.md R85). -/

namespace Sys2Proof.Machine

/-- The cause code of a cause (60_exceptions.md R221). -/
def Cause.code : Cause → Byte
  | .ok             => 0x00
  | .transportFault => 0x01
  | .illegalRequest => 0x02

/-- A response word: status byte, data byte (30_encoding.md R85). -/
def response (c : Cause) (data : Byte) : Word := c.code ++ data

/-- `RESP[15:8]` (30_encoding.md R85). -/
def respStatus (r : Word) : Byte := r.extractLsb' 8 8

/-- `RESP[7:0]` (30_encoding.md R85). -/
def respData (r : Word) : Byte := r.extractLsb' 0 8

/-- `S.initialized <- true` (42_controller.md R174). -/
def State.markInitialized (s : State) : State := { s with initialized := true }

/-- `S.currentLine <- l` (42_controller.md R181). -/
def State.setLine (s : State) (l : Line) : State := { s with currentLine := l }

/-- `RESP <- (c, data)` (10_state.md R28). -/
def State.answer (s : State) (c : Cause) (data : Byte) : State := { s with resp := response c data }

end Sys2Proof.Machine
end

