-- ==== Sys2Proof/Machine/Ops.lean ====
section
/-! DEFINITION. The shared operations: the transport and delay primitives (00_scope.md R14, 20_memory.md R54–R56),
raising a transport fault and leaving FAULTED (60_exceptions.md R228, 70_reset_and_hazards.md R250), and running one
request to completion (60_exceptions.md R234, 10_state.md R27). -/

namespace Sys2Proof.Machine

/-! ## Registers and trace -/

/-- Read a register of the expander as it stands (10_state.md R29). -/
def Expander.get (x : Expander) : Reg → Byte
  | .dir   => x.dir
  | .latch => x.latch

/-- `X.DIR <- v` or `X.LATCH <- v` (20_memory.md R55). -/
def Expander.set (x : Expander) : Reg → Byte → Expander
  | .dir, v   => { x with dir := v }
  | .latch, v => { x with latch := v }

/-- Append one event to the trace (10_state.md R31). -/
def State.log (s : State) (a : Action) (failed : Bool) : State :=
  { s with trace := s.trace ++ [{ action := a, failed := failed }] }

/-- `W <- v` (10_state.md R24). -/
def State.setWork (s : State) (v : Byte) : State := { s with w := v }

/-- Write a register of the expander (20_memory.md R55). -/
def State.setReg (s : State) (r : Reg) (v : Byte) : State := { s with x := s.x.set r v }

/-! ## Taking the transport fault, and the only way out of FAULTED -/

/-- The record of a failing transport event (10_state.md R26). A `WAIT` never fails and records nothing. -/
def Action.record : Action → Option FaultRecord
  | .rd r _  => some { cause := .transportFault, kind := .rd, reg := r, written := none }
  | .wr r v  => some { cause := .transportFault, kind := .wr, reg := r, written := some v }
  | .wb r v  => some { cause := .transportFault, kind := .wb, reg := r, written := some v }
  | .wait _  => none

/-- Fault entry (60_exceptions.md R228): the record, the response and the phase are written and the request ends
(00_scope.md R16); nothing else changes. -/
def State.raiseTransport (s : State) (a : Action) : State :=
  { s with fault := a.record, resp := response .transportFault 0, phase := .faulted, position := none }

/-- An illegal request: the response, and no other state (60_exceptions.md R222). -/
def State.rejectRequest (s : State) : State := s.answer .illegalRequest 0

/-- Block reset (70_reset_and_hazards.md R250, R251): every block register to its reset value, the expander untouched.
It is the only return from FAULTED (60_exceptions.md R229). The trace and the environment's fields stay (log 14). -/
def State.blockReset (s : State) : State :=
  { s with initialized := false, currentLine := .top, phase := .idle, fault := none, w := 0, resp := 0,
           position := none }

/-! ## Transport and delay primitives -/

/-- The transport's next draw: does the next transport primitive fail (60_exceptions.md R224, log 2)? -/
def nextFails : List Nat → Bool
  | []     => false
  | k :: _ => k == 0

/-- The draws left after one transport primitive. -/
def consumeDraw : List Nat → List Nat
  | []          => []
  | 0 :: ks     => ks
  | (k + 1) :: ks => k :: ks

/-- The draws left after `n` transport primitives. -/
def consumeDraws : Nat → List Nat → List Nat
  | 0, fs     => fs
  | n + 1, fs => consumeDraws n (consumeDraw fs)

/-- One transport primitive: it fails, leaving the registers alone and raising the fault, or takes its effect. Either
way it appends its event (00_scope.md R14, 60_exceptions.md R224). -/
def State.transport (s : State) (a : Action) (effect : State → State) : State :=
  let t := { s with failures := consumeDraw s.failures }
  if nextFails s.failures then (t.log a true).raiseTransport a else effect (t.log a false)

/-- The byte a latch read returns under `READ_MODEL = port`: the latch at output pins, the draw at input pins
(20_memory.md R54). -/
def portRead (x : Expander) (draw : Byte) : Byte := (x.latch &&& ~~~x.dir) ||| (draw &&& x.dir)

/-- The byte a latch read returns when `n` port-level draws have been taken (20_memory.md R54). -/
def latchRead (c : Config) (x : Expander) (n : Nat) : Byte :=
  match c.readModel with
  | .latch => x.latch
  | .port  => portRead x (Config.portDraw n)

/-- What a read of register `r` returns (20_memory.md R54). -/
def State.readValue (s : State) : Reg → Byte
  | .dir   => s.x.dir
  | .latch => latchRead s.cfg s.x s.draws

/-- A latch read under `READ_MODEL = port` takes one draw; no other read takes any (log 3). -/
def State.takeDraw (s : State) : Reg → State
  | .dir   => s
  | .latch =>
    match s.cfg.readModel with
    | .latch => s
    | .port  => { s with draws := s.draws + 1 }

/-- `W <- MemRead(r, 1)` (00_scope.md R14, 20_memory.md R54). -/
def State.memRead (s : State) (r : Reg) : State :=
  (s.takeDraw r).transport (.rd (regId s.cfg r) (s.readValue r)) (fun t => t.setWork (s.readValue r))

/-- `MemWrite(r, 1, v)` (00_scope.md R14, 20_memory.md R55). -/
def State.memWrite (s : State) (r : Reg) (v : Byte) : State :=
  s.transport (.wr (regId s.cfg r) v) (fun t => t.setReg r v)

/-- `MemWriteBuf([r, v])` (00_scope.md R14, 20_memory.md R56). -/
def State.memWriteBuf (s : State) (r : Reg) (v : Byte) : State :=
  s.transport (.wb (regId s.cfg r) v) (fun t => t.setReg r v)

/-- `Wait(n)`: one event; it never fails (00_scope.md R14, R15; 60_exceptions.md R224). -/
def State.waitFor (s : State) (n : Nat) : State := s.log (.wait n) false

/-! ## Executing a request -/

/-- One statement of an expansion takes its effect. -/
def State.doMicro (s : State) : Micro → State
  | .read r          => s.memRead r
  | .writeW r        => s.memWrite r s.w
  | .writeWBit r p l => s.memWrite r (setbit s.w p l)
  | .writeByte r b   => s.memWrite r b
  | .writeBuf r b    => s.memWriteBuf r b
  | .wait n          => s.waitFor n
  | .setW p l        => s.setWork (setbit s.w p l)
  | .enter _         => s
  | .setInitialized  => s.markInitialized
  | .setLine l       => s.setLine l
  | .respond         => s.answer .ok 0
  | .respondW        => s.answer .ok s.w

/-- The step position moves past one statement (10_state.md R27). -/
def Position.advance (p : Position) : Position := { p with next := p.next + 1 }

/-- Move the step position. -/
def State.advance (s : State) : State := { s with position := s.position.map Position.advance }

/-- Execute one statement while the request is alive; after a fault no later statement executes (00_scope.md R16,
60_exceptions.md R228). -/
def State.perform (s : State) (m : Micro) : State :=
  match s.phase with
  | .busy    => s.advance.doMicro m
  | .idle    => s
  | .faulted => s

/-- Execute statements in the order written (00_scope.md R13, 20_memory.md R61). -/
def State.run (s : State) (ms : List Micro) : State := ms.foldl State.perform s

/-- A request that reaches its end without a fault: the phase returns to IDLE and the position to "no request"
(10_state.md R25, R27). -/
def State.complete (s : State) : State :=
  match s.phase with
  | .busy    => { s with phase := .idle, position := none }
  | .idle    => s
  | .faulted => s

/-- Acceptance: `S.phase <- BUSY`, and the position stands before the first statement (10_state.md R25, R27). -/
def State.accept (s : State) (i : Instr) (ms : List Micro) : State :=
  { s with phase := .busy, position := some { request := i, expansion := ms, next := 0 } }

/-- The statements of the current request that are still to be executed. -/
def State.remaining (s : State) : List Micro :=
  match s.position with
  | some p => p.expansion.drop p.next
  | none   => []

/-- Run the current request to completion (60_exceptions.md R232, R234). -/
def State.finish (s : State) : State := (s.run s.remaining).complete

/-- Execute one statement of the current request, or complete it when none is left: the step position moves by one
(10_state.md R27). `finish` is this, repeated. -/
def State.tick (s : State) : State :=
  match s.phase with
  | .busy =>
    match s.remaining with
    | m :: _ => s.perform m
    | []     => s.complete
  | .idle    => s
  | .faulted => s

/-- Offer a request with a given expansion: accepted only while IDLE, then run to completion (60_exceptions.md R231,
R234). -/
def offer (i : Instr) (ms : List Micro) (s : State) : Host.Outcome State Fault Refusal :=
  match s.phase with
  | .idle    => .next (s.accept i ms).finish
  | .busy    => .fault .busy
  | .faulted => .fault .faulted

/-- Offer a request whose response is `(OK, 0x00)` (30_encoding.md R85). -/
def request (i : Instr) (body : List Micro) (s : State) : Host.Outcome State Fault Refusal :=
  offer i (body ++ [.respond]) s

/-! ## Views -/

/-- The label a statement list stands at: the last one passed (42_controller.md R173). -/
def lastStage : Stage → List Micro → Stage
  | st, []                => st
  | _, .enter st :: ms    => lastStage st ms
  | st, _ :: ms           => lastStage st ms

/-- The state of the cold-start state machine (42_controller.md R173): READY once initialised; the middle states exist
only while a cold start is being executed (log 13). -/
def State.stage (s : State) : Stage :=
  if s.initialized then .ready
  else match s.position with
    | some p => lastStage .unpowered (p.expansion.take p.next)
    | none   => .unpowered

/-- A transport event with the device address it carries (20_memory.md R50, 30_encoding.md R92); none for a wait. -/
def Action.transaction (c : Config) : Action → Option (BitVec 7 × Action)
  | .rd r v  => some (c.devAddr, .rd r v)
  | .wr r v  => some (c.devAddr, .wr r v)
  | .wb r v  => some (c.devAddr, .wb r v)
  | .wait _  => none

/-- The statement is a primitive of 00_scope.md R14; the others write a block register and emit no event. -/
def Micro.isPrimitive : Micro → Bool
  | .read _          => true
  | .writeW _        => true
  | .writeWBit _ _ _ => true
  | .writeByte _ _   => true
  | .writeBuf _ _    => true
  | .wait _          => true
  | .setW _ _        => false
  | .enter _         => false
  | .setInitialized  => false
  | .setLine _       => false
  | .respond         => false
  | .respondW        => false

/-- The primitive list of the request's expansion (10_state.md R27). -/
def Position.primitives (p : Position) : List Micro := p.expansion.filter Micro.isPrimitive

/-- The index of the next primitive in the request's primitive list (10_state.md R27, log 27). -/
def Position.index (p : Position) : Nat := (p.expansion.take p.next).countP Micro.isPrimitive

/-- The step position of 10_state.md R27: the request being executed and the index of its next primitive, or none for
"no request". -/
def State.stepPosition (s : State) : Option (Instr × Nat) := s.position.map fun p => (p.request, p.index)

/-- The sum of the waits of a trace, in time units (00_scope.md R15, 70_reset_and_hazards.md R275). -/
def waitUnits : List Event → Nat
  | []      => 0
  | e :: es =>
    match e.action with
    | .wait n  => n + waitUnits es
    | .rd _ _  => waitUnits es
    | .wr _ _  => waitUnits es
    | .wb _ _  => waitUnits es

/-- The least time the waits of a trace take, in microseconds (00_scope.md R8 `T_UNIT`, R15). -/
def minimumMicros (c : Config) (es : List Event) : Nat := waitUnits es * c.tUnit

end Sys2Proof.Machine
end

