-- ==== Sys2Proof/Machine/Expander.lean ====
section
/-! DEFINITION. Layer 1, the expander register interface (40_expander.md R121–R126), and the helpers `latchBit` and
`dirBit` that the upper layers expand in place (41_parallel_bus.md R140). -/

namespace Sys2Proof.Machine

/-- The body of a pin-level change: range test, then a read-modify-write of one register (40_expander.md R122–R124). -/
def rmwBit (r : Reg) (p : Nat) (l : Bool) : List Micro :=
  if p > 7 then [] else [.read r, .setW p l, .writeW r]

/-- `dirBit(p, l)`, the body of PINMODE (41_parallel_bus.md R140, 40_expander.md R123). -/
def dirBit (p : Nat) (l : Bool) : List Micro := rmwBit .dir p l

/-- `latchBit(p, l)`, the body of WRPIN (41_parallel_bus.md R140, 40_expander.md R124). -/
def latchBit (p : Nat) (l : Bool) : List Micro := rmwBit .latch p l

/-- `SETDIR b` (40_expander.md R121). -/
def execSetdir (b : Byte) (s : State) : Host.Outcome State Fault Refusal :=
  request (.setdir b) [.writeBuf .dir b] s

/-- `PINMODE p, l` (40_expander.md R123). -/
def execPinmode (p : Nat) (l : Bool) (s : State) : Host.Outcome State Fault Refusal :=
  request (.pinmode p l) (dirBit p l) s

/-- `WRPIN p, l` (40_expander.md R124). -/
def execWrpin (p : Nat) (l : Bool) (s : State) : Host.Outcome State Fault Refusal :=
  request (.wrpin p l) (latchBit p l) s

/-- `RDLATCH` (40_expander.md R125): `W <- MemRead(REG_LATCH, 1); RESP <- (OK, W)`. -/
def execRdlatch (s : State) : Host.Outcome State Fault Refusal :=
  offer .rdlatch [.read .latch, .respondW] s

/-- `WRLATCH b` (40_expander.md R126). -/
def execWrlatch (b : Byte) (s : State) : Host.Outcome State Fault Refusal :=
  request (.wrlatch b) [.writeByte .latch b] s

end Sys2Proof.Machine
end

