-- ==== Sys2Proof/Machine/Bus.lean ====
section
/-! DEFINITION. Layer 2, the parallel-bus emulator: the nibble writer, the cold-start nibble writer and the byte sender
(41_parallel_bus.md R140–R143). -/

namespace Sys2Proof.Machine

/-- `for k in 0..3: W <- setbit(W, P.DB(k), n[k])` (30_encoding.md R88). -/
def placeW (p : PinMap) (n : Nibble) : List Micro :=
  [.setW p.db4.val (n.getLsbD 0), .setW p.db5.val (n.getLsbD 1), .setW p.db6.val (n.getLsbD 2), .setW p.db7.val (n.getLsbD 3)]

/-- `nibble(n)`, the body of NIBBLE (41_parallel_bus.md R141). -/
def nibbleBody (c : Config) (n : Nibble) : List Micro :=
  List.flatten
    [[.read .latch],
     placeW c.pins n,
     [.setW c.pins.e.val false, .writeW .latch, .wait c.tSetup,
      .writeWBit .latch c.pins.e.val true, .wait c.tPulse,
      .writeW .latch, .wait c.tHold]]

/-- `nibbleInit(n)`, the body of NIBINIT (41_parallel_bus.md R142). -/
def nibinitBody (c : Config) (n : Nibble) : List Micro :=
  List.flatten
    [latchBit c.pins.db4.val (n.getLsbD 0), latchBit c.pins.db5.val (n.getLsbD 1),
     latchBit c.pins.db6.val (n.getLsbD 2), latchBit c.pins.db7.val (n.getLsbD 3), [.wait c.tInitNib],
     latchBit c.pins.e.val false, [.wait c.tInitNib],
     latchBit c.pins.e.val true, [.wait c.tInitNib],
     latchBit c.pins.e.val false, [.wait c.tInitNib]]

/-- `sendByte(b, m)`, the body of SENDBYTE: RS once, then the high nibble, then the low nibble (41_parallel_bus.md
R143). -/
def sendByteBody (c : Config) (b : Byte) (m : Bool) : List Micro :=
  List.flatten [latchBit c.pins.rs.val m, nibbleBody c (highNibble b), nibbleBody c (lowNibble b)]

/-- `NIBBLE n` (41_parallel_bus.md R141). -/
def execNibble (n : Nibble) (s : State) : Host.Outcome State Fault Refusal :=
  request (.nibble n) (nibbleBody s.cfg n) s

/-- `NIBINIT n` (41_parallel_bus.md R142). -/
def execNibinit (n : Nibble) (s : State) : Host.Outcome State Fault Refusal :=
  request (.nibinit n) (nibinitBody s.cfg n) s

/-- `SENDBYTE b, m` (41_parallel_bus.md R143). -/
def execSendbyte (b : Byte) (m : Bool) (s : State) : Host.Outcome State Fault Refusal :=
  request (.sendbyte b m) (sendByteBody s.cfg b m) s

end Sys2Proof.Machine
end

