-- ==== Sys2Proof/Machine/Controller.lean ====
section
/-! DEFINITION. Layer 3, the controller protocol and session state: dispatch, the cold start, the ensure-initialised
check, cursor addressing and line selection (42_controller.md R170–R181). -/

namespace Sys2Proof.Machine

/-- `if T_CLEAR_EXTRA > 0: Wait(T_CLEAR_EXTRA)` (42_controller.md R174, 43_host_operations.md R201). -/
def clearExtra (c : Config) : List Micro := if c.tClearExtra > 0 then [.wait c.tClearExtra] else []

/-- The UNPOWERED part of the cold start: directions, backlight, RS and E low, outputs, power-on wait
(42_controller.md R174). -/
def coldUnpowered (c : Config) : List Micro :=
  List.flatten
    [[.enter .unpowered, .writeBuf .dir c.initDirMask],
     dirBit c.pins.bl.val false, latchBit c.pins.bl.val true,
     latchBit c.pins.rs.val false, latchBit c.pins.e.val false,
     dirBit c.pins.rs.val false, dirBit c.pins.e.val false, dirBit c.pins.db4.val false,
     dirBit c.pins.db5.val false, dirBit c.pins.db6.val false, dirBit c.pins.db7.val false,
     [.wait c.tPower]]

/-- The FORCED-8BIT part: the nibble 0x3 three times, each with its settle wait (42_controller.md R174). -/
def coldForced8bit (c : Config) : List Micro :=
  List.flatten
    [[.enter .forced8bit],
     nibinitBody c 0x3, [.wait c.tS1], nibinitBody c 0x3, [.wait c.tS2], nibinitBody c 0x3, [.wait c.tS3]]

/-- The SWITCH-TO-4BIT part: the nibble 0x2 once, with its settle wait (42_controller.md R174). -/
def coldSwitchTo4bit (c : Config) : List Micro :=
  List.flatten [[.enter .switchTo4bit], nibinitBody c 0x2, [.wait c.tS4]]

/-- `CMD_SET_CURSOR | LINE_BASE_TOP` (42_controller.md R174). -/
def homeByte (c : Config) : Byte := c.cmdSetCursor ||| BitVec.ofNat 8 c.lineBaseTop

/-- The CONFIGURED part: six command bytes through the two-nibble path (42_controller.md R174). -/
def coldConfigured (c : Config) : List Micro :=
  List.flatten
    [[.enter .configured],
     sendByteBody c c.cmdFunctionSet false, sendByteBody c c.cmdDisplayOff false,
     sendByteBody c c.cmdClear false, clearExtra c,
     sendByteBody c c.cmdEntryMode false, sendByteBody c c.cmdDisplayOn false,
     sendByteBody c (homeByte c) false]

/-- `coldStart()` (42_controller.md R174). -/
def coldStart (c : Config) : List Micro :=
  List.flatten
    [coldUnpowered c, coldForced8bit c, coldSwitchTo4bit c, coldConfigured c, [.enter .ready, .setInitialized]]

/-- `ensureInitialized()`, the body of INIT: the test is made before any primitive (42_controller.md R176). -/
def ensureInitialized (s : State) : List Micro := if s.initialized then [] else coldStart s.cfg

/-- Move to a line's start and record the line, the body of LINESEL (42_controller.md R181). -/
def lineselBody (c : Config) (l : Line) : List Micro :=
  sendByteBody c (cursorByte c (lineRow l) 0) false ++ [.setLine l]

/-- `SENDCMD b` (42_controller.md R171). -/
def execSendcmd (b : Byte) (s : State) : Host.Outcome State Fault Refusal :=
  request (.sendcmd b) (sendByteBody s.cfg b false) s

/-- `SENDCHAR b` (42_controller.md R172). -/
def execSendchar (b : Byte) (s : State) : Host.Outcome State Fault Refusal :=
  request (.sendchar b) (sendByteBody s.cfg b true) s

/-- `INIT` (42_controller.md R176). -/
def execInit (s : State) : Host.Outcome State Fault Refusal :=
  request .init (ensureInitialized s) s

/-- `SETCURSOR r, c` (42_controller.md R180). -/
def execSetcursor (r : Nat) (c : Int) (s : State) : Host.Outcome State Fault Refusal :=
  request (.setcursor r c) (sendByteBody s.cfg (cursorByte s.cfg r c) false) s

/-- `LINESEL l` (42_controller.md R181). -/
def execLinesel (l : Line) (s : State) : Host.Outcome State Fault Refusal :=
  request (.linesel l) (lineselBody s.cfg l) s

/-- `LINESEL cur` (42_controller.md R181): the line is the one `S.currentLine` records. -/
def execLineselCur (s : State) : Host.Outcome State Fault Refusal :=
  request .lineselCur (lineselBody s.cfg s.currentLine) s

end Sys2Proof.Machine
end

