-- ==== Sys2Proof/Machine/Public.lean ====
section
/-! DEFINITION. The public requests without text, CLEAR and CLEARLINE (43_host_operations.md R200–R202). -/

namespace Sys2Proof.Machine

/-- CLEAR after its ensure-initialised check: the clear command, then set-cursor to the top line's home
(43_host_operations.md R201). -/
def clearBody (c : Config) : List Micro :=
  sendByteBody c c.cmdClear false ++ clearExtra c ++ sendByteBody c (cursorByte c 0 0) false

/-- `for i in 1..n: sendByte(0x20, 1)` (43_host_operations.md R202). -/
def spaces (c : Config) : Nat → List Micro
  | 0     => []
  | n + 1 => sendByteBody c 0x20 true ++ spaces c n

/-- CLEARLINE after its ensure-initialised check: the LINESEL body, then one space per column
(43_host_operations.md R202, log 24). -/
def clearlineBody (c : Config) (l : Line) : List Micro := lineselBody c l ++ spaces c c.columns

/-- `CLEAR` (43_host_operations.md R201). -/
def execClear (s : State) : Host.Outcome State Fault Refusal :=
  request .clear (ensureInitialized s ++ clearBody s.cfg) s

/-- `CLEARLINE l` (43_host_operations.md R202). -/
def execClearline (l : Line) (s : State) : Host.Outcome State Fault Refusal :=
  request (.clearline l) (ensureInitialized s ++ clearlineBody s.cfg l) s

end Sys2Proof.Machine
end

