-- ==== Sys2Proof/Machine/Dispatch.lean ====
section
/-! DEFINITION. The dispatch of a request to its meaning, one arm per constructor. -/

namespace Sys2Proof.Machine

def exec (i : Instr) (s : State) : Host.Outcome State Fault Refusal :=
  match i with
  | .setdir b => Sys2Proof.Machine.execSetdir b s
  | .pinmode p l => Sys2Proof.Machine.execPinmode p l s
  | .wrpin p l => Sys2Proof.Machine.execWrpin p l s
  | .rdlatch => Sys2Proof.Machine.execRdlatch s
  | .wrlatch b => Sys2Proof.Machine.execWrlatch b s
  | .nibble n => Sys2Proof.Machine.execNibble n s
  | .nibinit n => Sys2Proof.Machine.execNibinit n s
  | .sendbyte b m => Sys2Proof.Machine.execSendbyte b m s
  | .sendcmd b => Sys2Proof.Machine.execSendcmd b s
  | .sendchar b => Sys2Proof.Machine.execSendchar b s
  | .init => Sys2Proof.Machine.execInit s
  | .setcursor r c => Sys2Proof.Machine.execSetcursor r c s
  | .linesel l => Sys2Proof.Machine.execLinesel l s
  | .lineselCur => Sys2Proof.Machine.execLineselCur s
  | .clear => Sys2Proof.Machine.execClear s
  | .clearline l => Sys2Proof.Machine.execClearline l s

end Sys2Proof.Machine
end

