-- ==== Sys2Proof/Machine/Sequencer.lean ====
section
/-! DEFINITION. Taking the host's next move: what a request word does in each phase (60_exceptions.md R222, R229, R231,
R234) and what the block does when the host makes no move. `step` (Step.lean) only calls this. -/

namespace Sys2Proof.Machine

/-- The block accepts a word: decode before any primitive; an illegal word only answers (60_exceptions.md R222,
R227). -/
def runWord (w : Word) (s : State) : Host.Outcome State Fault Refusal :=
  match decode w with
  | .ok i    => exec i s
  | .error _ => .next s.rejectRequest

/-- The block has no reset move to take. IDLE: accept the next word, or wait for one (70_reset_and_hazards.md R254,
log 8). BUSY: the block runs its request to completion and sees no word (60_exceptions.md R231, R234, log 7). FAULTED:
stuck until block reset (60_exceptions.md R229, log 9). -/
def takeRequest (s : State) : Host.Outcome State Fault Refusal :=
  match s.phase with
  | .faulted => .fault .faulted
  | .busy    => .next s.finish
  | .idle    =>
    match s.host with
    | .request w :: rest  => runWord w { s with host := rest }
    | .blockReset :: _    => .next s
    | []                  => .next s

/-- One step of the block and its host: a block reset lands in any phase (70_reset_and_hazards.md R250). -/
def hostStep (s : State) : Host.Outcome State Fault Refusal :=
  match s.host with
  | .blockReset :: rest => .next { s with host := rest }.blockReset
  | .request _ :: _     => takeRequest s
  | []                  => takeRequest s

/-- The host places a word on the request interface, before its other moves (60_exceptions.md R231, log 10). -/
def State.place (s : State) (w : Word) : State := { s with host := .request w :: s.host }

end Sys2Proof.Machine
end

