-- ==== Sys2Proof/Machine/HostOps.lean ====
section
/-! DEFINITION. The public operations as the host expands them into requests (43_host_operations.md R200–R208). None
means the expansion is refused and no request is issued (R207). -/

namespace Sys2Proof.Machine

/-- A string of the host, as its characters (log 21). -/
abbrev Text := List Char

/-- `take16(s ++ 16 spaces)` with the default COLUMNS: the text padded and cut to the width of a line
(43_host_operations.md R203, R210; 00_scope.md R8 `COLUMNS`, log 24). -/
def fitLine (columns : Nat) (s : Text) : Text := (s ++ List.replicate columns ' ').take columns

/-- A character's SENDCHAR, refused above code point 0xFF (43_host_operations.md R207). -/
def charRequest (ch : Char) : Option Instr :=
  if ch.toNat ≤ 0xFF then some (.sendchar (BitVec.ofNat 8 ch.toNat)) else none

/-- One SENDCHAR per character, in string order; refused whole if one is (43_host_operations.md R207). -/
def textRequests : Text → Option (List Instr)
  | []      => some []
  | c :: cs =>
    match charRequest c, textRequests cs with
    | some i, some is => some (i :: is)
    | some _, none    => none
    | none, _         => none

/-- A text operation: a prologue of requests, then the text (43_host_operations.md R200, R203–R206). -/
def withText (prologue : List Instr) (s : Text) : Option (List Instr) :=
  match textRequests s with
  | some is => some (prologue ++ is)
  | none    => none

/-- `clear()` (43_host_operations.md R201). -/
def hostClear : List Instr := [.clear]

/-- `clearLine(l)` (43_host_operations.md R202). -/
def hostClearLine (l : Line) : List Instr := [.clearline l]

/-- `writeLine(l, s)` (43_host_operations.md R203). -/
def writeLine (c : Config) (l : Line) (s : Text) : Option (List Instr) :=
  withText [.init, .linesel l] (fitLine c.columns s)

/-- `writeText(row, col, s)` (43_host_operations.md R204). -/
def writeText (c : Config) (row col : Int) (s : Text) : Option (List Instr) :=
  withText [.init, .setcursor (if row > 0 then 1 else 0) (clampedColumn c.columns col)] s

/-- `log(v)` with the host's number format `numfmt` (43_host_operations.md R205, 00_scope.md R10, log 20). -/
def logNumber {α : Type} (c : Config) (numfmt : α → Text) (v : α) : Option (List Instr) :=
  withText [.init, .lineselCur] (fitLine c.columns (numfmt v))

/-- `logValue(label, v)` (43_host_operations.md R206). -/
def logValue {α : Type} (c : Config) (numfmt : α → Text) (label : Text) (v : α) : Option (List Instr) :=
  withText [.init, .lineselCur] (fitLine c.columns (label ++ [':'] ++ numfmt v))

/-- The request words of an expansion (30_encoding.md R81). -/
def wordsOf (is : List Instr) : List Word := is.map encode

/-- The host issues an expansion after its moves so far, request by request; a refused one issues nothing
(43_host_operations.md R207, 60_exceptions.md R231). -/
def State.issue (s : State) (op : Option (List Instr)) : State :=
  match op with
  | some is => { s with host := s.host ++ (wordsOf is).map HostMove.request }
  | none    => s

end Sys2Proof.Machine
end

