-- ==== Sys2Proof/Machine/Lcd.lean ====
section
/-! DEFINITION. The pin levels (10_state.md R32) and the informative receiver of 41_parallel_bus.md R150–R156, as an
observer of the trace: what the LCD side captures and receives. The block holds none of it (10_state.md R33, 92 D28).
Everything the spec leaves to the LCD side is an argument, a draw per event, so a claim holds for every draw (log 16). -/

namespace Sys2Proof.Machine

/-- The level of a signal the LCD sees; `z` is undriven (10_state.md R32). -/
inductive Level where
  | low
  | high
  | z
  deriving DecidableEq, Repr

/-- The level of the pin at position `p` (10_state.md R32). -/
def pinLevel (x : Expander) (p : Fin 8) : Level :=
  if x.dir.getLsbD p then .z else if x.latch.getLsbD p then .high else .low

/-- The register an id names, if it is one of the two the block reaches (20_memory.md R51). -/
def regOfId (c : Config) (r : Byte) : Option Reg :=
  if r = c.regDir then some .dir else if r = c.regLatch then some .latch else none

/-- What an event does to the expander: a write that did not fail sets its register, nothing else does (20_memory.md
R54–R56, 60_exceptions.md R224). -/
def Expander.after (c : Config) (x : Expander) (e : Event) : Expander :=
  if e.failed then x
  else match e.action with
    | .wr r v  => match regOfId c r with
      | some g => x.set g v
      | none   => x
    | .wb r v  => match regOfId c r with
      | some g => x.set g v
      | none   => x
    | .rd _ _  => x
    | .wait _  => x

/-- The expander after a list of events (20_memory.md R61). -/
def Expander.replay (c : Config) (x : Expander) (es : List Event) : Expander := es.foldl (Expander.after c) x

/-- A captured nibble with its RS level; `low` are the levels of the unwired lines DB3..DB0 (41_parallel_bus.md R151,
R154), and `ready` is whether the controller has finished a clear-display it was executing (70_reset_and_hazards.md
R266). `low` and `ready` are draws. -/
structure Capture where
  rs    : Bool
  nib   : Nibble
  low   : Nibble
  ready : Bool
  deriving DecidableEq, Repr

/-- What the LCD side is free to do around one event: the captures before it while E is undriven, the levels taken on
lines that changed with E or are undriven, and the capture of an event that may or may not be a falling edge
(41_parallel_bus.md R152, R153, R154). -/
structure LcdDraw where
  idle   : List Capture
  settle : Capture
  stray  : Option Capture
  deriving DecidableEq, Repr

/-- The bus width and, in 4-bit mode, the half expected next, with the stored high nibble (41_parallel_bus.md R154). -/
inductive LcdIf where
  | eight
  | fourHi
  | fourLo (hi : Nibble)
  deriving DecidableEq, Repr

/-- The receiver: its interface state, the captures so far, the bytes received so far and those among them it has
acted on, each byte with its RS, and whether it may still be executing a clear-display (70_reset_and_hazards.md R266). -/
structure Lcd where
  iface    : LcdIf
  captured : List Capture
  received : List (Bool × Byte)
  executed : List (Bool × Byte)
  clearing : Bool
  deriving DecidableEq, Repr

/-- The controller after a power-on: 8-bit mode (41_parallel_bus.md R154, 70_reset_and_hazards.md R253). -/
def Lcd.powerOn : Lcd := { iface := .eight, captured := [], received := [], executed := [], clearing := false }

/-- The interface after a byte completes in 4-bit mode and is executed or not: a function set with DL = 1 that is executed
returns it to 8-bit mode (41_parallel_bus.md R154). -/
def afterByte (executed rs : Bool) (hi : Nibble) : LcdIf :=
  if executed && !rs && hi == 0x3#4 then .eight else .fourHi

/-- The interface after a capture in 8-bit mode, executed or not (41_parallel_bus.md R154, log 22). -/
def afterWhole (executed rs : Bool) (nib : Nibble) : LcdIf :=
  if executed && !rs && nib == 0x2#4 then .fourHi else .eight

/-- A byte that completes now is executed: no clear-display is in progress, or the draw says that it has finished
(70_reset_and_hazards.md R266, log 28). -/
def Lcd.executes (l : Lcd) (ready : Bool) : Bool := !l.clearing || ready

/-- The byte is a clear-display command (70_reset_and_hazards.md R266). -/
def isClear (rs : Bool) (b : Byte) : Bool := !rs && b == 0x01#8

/-- A byte completes: it is received, and executed or not (41_parallel_bus.md R154, 70_reset_and_hazards.md R266). -/
def Lcd.complete (l : Lcd) (rs ready : Bool) (b : Byte) : Lcd :=
  { l with received := l.received ++ [(rs, b)],
           executed := if l.executes ready then l.executed ++ [(rs, b)] else l.executed,
           clearing := if l.executes ready then isClear rs b else true }

/-- One capture acts on the receiver (41_parallel_bus.md R154). -/
def Lcd.capture (l : Lcd) (c : Capture) : Lcd :=
  let k := { l with captured := l.captured ++ [c] }
  match l.iface with
  | .eight     => { k.complete c.rs c.ready (c.nib ++ c.low) with iface := afterWhole (l.executes c.ready) c.rs c.nib }
  | .fourHi    => { k with iface := .fourLo c.nib }
  | .fourLo hi => { k.complete c.rs c.ready (hi ++ c.nib) with iface := afterByte (l.executes c.ready) c.rs hi }

/-- The execution time of a clear-display in microseconds (70_reset_and_hazards.md R266: "a reader who needs that
guarantee sets `T_CLEAR_EXTRA` ≥ 1520"). -/
def clearMicros : Nat := 1520

/-- A wait at least as long as a clear-display ends it (70_reset_and_hazards.md R266, log 28). -/
def Lcd.elapse (c : Config) (l : Lcd) (e : Event) : Lcd :=
  match e.action with
  | .wait n  => if clearMicros ≤ n * c.tUnit then { l with clearing := false } else l
  | .rd _ _  => l
  | .wr _ _  => l
  | .wb _ _  => l

/-- The level taken from a line at a falling edge: its settled level, or a draw when the line changed in the same event
or is undriven (41_parallel_bus.md R151, R153, log 16). -/
def sample (before after : Level) (draw : Bool) : Bool :=
  match before, after with
  | .low, .low     => false
  | .high, .high   => true
  | .low, .high    => draw
  | .high, .low    => draw
  | .z, _          => draw
  | .low, .z       => draw
  | .high, .z      => draw

/-- The nibble `{DB7, DB6, DB5, DB4}`. -/
def nibbleOf (d7 d6 d5 d4 : Bool) : Nibble := BitVec.ofBool d7 ++ BitVec.ofBool d6 ++ BitVec.ofBool d5 ++ BitVec.ofBool d4

/-- The capture at an event that takes the expander from `x` to `y` and makes E fall (41_parallel_bus.md R151, R153). -/
def edgeCapture (p : PinMap) (x y : Expander) (d : Capture) : Capture :=
  { rs  := sample (pinLevel x p.rs) (pinLevel y p.rs) d.rs,
    nib := nibbleOf
      (sample (pinLevel x p.db7) (pinLevel y p.db7) (d.nib.getLsbD 3))
      (sample (pinLevel x p.db6) (pinLevel y p.db6) (d.nib.getLsbD 2))
      (sample (pinLevel x p.db5) (pinLevel y p.db5) (d.nib.getLsbD 1))
      (sample (pinLevel x p.db4) (pinLevel y p.db4) (d.nib.getLsbD 0)),
    low := d.low, ready := d.ready }

/-- The captures an event admits: one when E falls from 1 to 0; one or none when E turns from undriven to 0 or from 1 to
undriven; none otherwise (41_parallel_bus.md R151, R152). -/
def captures (p : PinMap) (x y : Expander) (d : LcdDraw) : List Capture :=
  match pinLevel x p.e, pinLevel y p.e with
  | .high, .low    => [edgeCapture p x y d.settle]
  | .z, .low       => d.stray.toList
  | .high, .z      => d.stray.toList
  | .z, .high      => []
  | .z, .z         => []
  | .low, .z       => []
  | .low, .low     => []
  | .low, .high    => []
  | .high, .high   => []

/-- The captures admitted between two events, before the first and after the last: any number of arbitrary ones while E
is undriven, none otherwise (41_parallel_bus.md R152). -/
def idleCaptures (p : PinMap) (x : Expander) (d : LcdDraw) : List Capture :=
  match pinLevel x p.e with
  | .z    => d.idle
  | .low  => []
  | .high => []

/-- The receiver over a list of captures. -/
def Lcd.captureAll (l : Lcd) (cs : List Capture) : Lcd := cs.foldl Lcd.capture l

/-- The receiver over a list of events, with one draw for each event and one for the time after the last
(41_parallel_bus.md R150–R154). -/
def Lcd.observe (c : Config) : (Nat → LcdDraw) → Expander → List Event → Lcd → Lcd
  | d, x, [], l      => l.captureAll (idleCaptures c.pins x (d 0))
  | d, x, e :: es, l =>
    let y := x.after c e
    let before := l.captureAll (idleCaptures c.pins x (d 0))
    Lcd.observe c (fun n => d (n + 1)) y es ((before.captureAll (captures c.pins x y (d 0))).elapse c e)

end Sys2Proof.Machine
end

