-- ==== Sys2Proof/Safety.lean ====
section
/-! DEFINITION. The terms claims use: a transport that answers, the invariant of the machine, event counts, the prefix
of a run that a fault leaves, and what two runs have in common. -/

namespace Sys2Proof.Machine

/-- The transport answers the next `n` transport primitives (60_exceptions.md R224, log 2). -/
def transportOk (n : Nat) (fs : List Nat) : Bool :=
  match fs with
  | []     => true
  | k :: _ => decide (n ≤ k)

/-- The transport primitives of the cold start: 1 `WB`, 56 `RD`, 80 `WR` (42_controller.md R174); those of INIT on a
block that is `initialized` or not (R176). -/
def initTransports (initialized : Bool) : Nat := if initialized then 0 else 137

/-- The transport primitives of a request (40_expander.md, 41_parallel_bus.md R144, 42_controller.md,
43_host_operations.md). -/
def transports (initialized : Bool) : Instr → Nat
  | .setdir _      => 1
  | .pinmode p _   => if p > 7 then 0 else 2
  | .wrpin p _     => if p > 7 then 0 else 2
  | .rdlatch       => 1
  | .wrlatch _     => 1
  | .nibble _      => 4
  | .nibinit _     => 14
  | .sendbyte _ _  => 10
  | .sendcmd _     => 10
  | .sendchar _    => 10
  | .init          => initTransports initialized
  | .setcursor _ _ => 10
  | .linesel _     => 10
  | .lineselCur    => 10
  | .clear         => initTransports initialized + 20
  | .clearline _   => initTransports initialized + 170

/-- The requests that begin with the ensure-initialised check, or are it (30_encoding.md R84, 43_host_operations.md
R200). -/
def ensuresInit : Instr → Bool
  | .setdir _      => false
  | .pinmode _ _   => false
  | .wrpin _ _     => false
  | .rdlatch       => false
  | .wrlatch _     => false
  | .nibble _      => false
  | .nibinit _     => false
  | .sendbyte _ _  => false
  | .sendcmd _     => false
  | .sendchar _    => false
  | .init          => true
  | .setcursor _ _ => false
  | .linesel _     => false
  | .lineselCur    => false
  | .clear         => true
  | .clearline _   => true

/-- The events of the optional wait after a clear-display command (42_controller.md R174). -/
def extraEvents (c : Config) : Nat := if c.tClearExtra = 0 then 0 else 1

/-- The events of the cold start: 194 with the default parameters (42_controller.md R174). -/
def coldEvents (c : Config) : Nat := 194 + extraEvents c

/-- The events of a completed request on an initialised block with 16 columns (40_expander.md, 41_parallel_bus.md R144,
42_controller.md R176, 43_host_operations.md R201, R202). -/
def eventsOf (c : Config) : Instr → Nat
  | .setdir _      => 1
  | .pinmode p _   => if p > 7 then 0 else 2
  | .wrpin p _     => if p > 7 then 0 else 2
  | .rdlatch       => 1
  | .wrlatch _     => 1
  | .nibble _      => 7
  | .nibinit _     => 18
  | .sendbyte _ _  => 16
  | .sendcmd _     => 16
  | .sendchar _    => 16
  | .init          => 0
  | .setcursor _ _ => 16
  | .linesel _     => 16
  | .lineselCur    => 16
  | .clear         => 32 + extraEvents c
  | .clearline _   => 272

/-- The reserved bits of an opcode's format, the `0` positions of 30_encoding.md R81 and R84. -/
def reservedMask (op : Nibble) : Word :=
  match op.toNat with
  | 0x1 => 0x0F00   -- F_B8
  | 0x2 => 0x00FE   -- F_PIN
  | 0x3 => 0x00FE   -- F_PIN
  | 0x4 => 0x0FFF   -- F_NONE
  | 0x5 => 0x0F00   -- F_B8
  | 0x6 => 0x0FF0   -- F_N4
  | 0x7 => 0x0FF0   -- F_N4
  | 0x8 => 0x0E00   -- F_RSB
  | 0x9 => 0x0F00   -- F_B8
  | 0xA => 0x0F00   -- F_B8
  | 0xB => 0x0FFF   -- F_NONE
  | 0xC => 0x0000   -- F_CUR
  | 0xD => 0x0FFC   -- F_LSEL
  | 0xE => 0x0FFF   -- F_NONE
  | 0xF => 0x0FFE   -- F_LINE
  | _   => 0x0000

/-- The order of the cold-start states (42_controller.md R173). -/
def Stage.rank : Stage → Nat
  | .unpowered    => 0
  | .forced8bit   => 1
  | .switchTo4bit => 2
  | .configured   => 3
  | .ready        => 4

/-! ## Events -/

/-- The event is a transport primitive, not a wait. -/
def Event.isTransport (e : Event) : Bool :=
  match e.action with
  | .rd _ _ => true
  | .wr _ _ => true
  | .wb _ _ => true
  | .wait _ => false

/-- The event is an `RD`. -/
def Event.isRead (e : Event) : Bool :=
  match e.action with
  | .rd _ _ => true
  | .wr _ _ => false
  | .wb _ _ => false
  | .wait _ => false

/-- The event is a `WR`. -/
def Event.isWrite (e : Event) : Bool :=
  match e.action with
  | .rd _ _ => false
  | .wr _ _ => true
  | .wb _ _ => false
  | .wait _ => false

/-- The event is a `WAIT`. -/
def Event.isWait (e : Event) : Bool :=
  match e.action with
  | .rd _ _ => false
  | .wr _ _ => false
  | .wb _ _ => false
  | .wait _ => true

/-- The events of a trace by kind: `RD`, `WR`, `WAIT`, and all of them. -/
structure Counts where
  rd    : Nat
  wr    : Nat
  wait  : Nat
  total : Nat
  deriving DecidableEq, Repr

/-- Count a trace. -/
def countEvents (es : List Event) : Counts :=
  { rd := es.countP Event.isRead, wr := es.countP Event.isWrite, wait := es.countP Event.isWait, total := es.length }

/-- An `RD`, a `WR`, a `WB` and a `WAIT` that did not fail. -/
def evRd (r v : Byte) : Event := { action := .rd r v, failed := false }

def evWr (r v : Byte) : Event := { action := .wr r v, failed := false }

def evWb (r v : Byte) : Event := { action := .wb r v, failed := false }

def evWait (n : Nat) : Event := { action := .wait n, failed := false }

/-! ## Scripts: the pseudocode of the requests over the expander alone -/

/-- A helper of the pseudocode: a whole-register write, a pin-level change, a nibble or a wait (40_expander.md R121,
R123, R124, R126; 41_parallel_bus.md R140, R141). A script is a list of them; its meaning below mentions no working
image, no phase and no fault. -/
inductive Act where
  | dirAll (b : Byte)
  | latchAll (b : Byte)
  | dirPin (p : Nat) (l : Bool)
  | latchPin (p : Nat) (l : Bool)
  | nib (n : Nibble)
  | pause (n : Nat)
  deriving DecidableEq, Repr

/-- The events of a nibble whose read returned `v` (41_parallel_bus.md R141). -/
def nibbleEvents (c : Config) (v : Byte) (n : Nibble) : List Event :=
  [evRd c.regLatch v,
   evWr c.regLatch (nibbleImage c.pins v n), evWait c.tSetup,
   evWr c.regLatch (setbit (nibbleImage c.pins v n) c.pins.e.val true), evWait c.tPulse,
   evWr c.regLatch (nibbleImage c.pins v n), evWait c.tHold]

/-- The events of a pin-level change whose read returned `v` (40_expander.md R122, R123, R124). -/
def pinEvents (r v : Byte) (p : Nat) (l : Bool) : List Event :=
  if p > 7 then [] else [evRd r v, evWr r (setbit v p l)]

/-- The events of one act on the expander `x` when `n` port-level draws have been taken. -/
def Act.events (c : Config) (x : Expander) (n : Nat) : Act → List Event
  | .dirAll b     => [evWb c.regDir b]
  | .latchAll b   => [evWr c.regLatch b]
  | .dirPin p l   => pinEvents c.regDir x.dir p l
  | .latchPin p l => pinEvents c.regLatch (latchRead c x n) p l
  | .nib k        => nibbleEvents c (latchRead c x n) k
  | .pause k      => [evWait k]

/-- The expander after one act. -/
def Act.after (c : Config) (x : Expander) (n : Nat) : Act → Expander
  | .dirAll b     => { x with dir := b }
  | .latchAll b   => { x with latch := b }
  | .dirPin p l   => if p > 7 then x else { x with dir := setbit x.dir p l }
  | .latchPin p l => if p > 7 then x else { x with latch := setbit (latchRead c x n) p l }
  | .nib k        => { x with latch := nibbleImage c.pins (latchRead c x n) k }
  | .pause _      => x

/-- The latch reads of one act. -/
def Act.reads : Act → Nat
  | .dirAll _     => 0
  | .latchAll _   => 0
  | .dirPin _ _   => 0
  | .latchPin p _ => if p > 7 then 0 else 1
  | .nib _        => 1
  | .pause _      => 0

/-- The events of a script. -/
def playEvents (c : Config) : Expander → Nat → List Act → List Event
  | _, _, []      => []
  | x, n, a :: as => a.events c x n ++ playEvents c (a.after c x n) (n + a.reads) as

/-- The expander after a script. -/
def playEnd (c : Config) : Expander → Nat → List Act → Expander
  | x, _, []      => x
  | x, n, a :: as => playEnd c (a.after c x n) (n + a.reads) as

/-- NIBINIT: the four data lines one at a time, then E low, high, low, a wait after each (41_parallel_bus.md R142). -/
def nibinitScript (c : Config) (n : Nibble) : List Act :=
  [.latchPin c.pins.db4.val (n.getLsbD 0), .latchPin c.pins.db5.val (n.getLsbD 1),
   .latchPin c.pins.db6.val (n.getLsbD 2), .latchPin c.pins.db7.val (n.getLsbD 3), .pause c.tInitNib,
   .latchPin c.pins.e.val false, .pause c.tInitNib,
   .latchPin c.pins.e.val true, .pause c.tInitNib,
   .latchPin c.pins.e.val false, .pause c.tInitNib]

/-- SENDBYTE: RS, the high nibble, the low nibble (41_parallel_bus.md R143). -/
def sendScript (c : Config) (b : Byte) (m : Bool) : List Act :=
  [.latchPin c.pins.rs.val m, .nib (highNibble b), .nib (lowNibble b)]

/-- The optional wait after a clear-display command (42_controller.md R174). -/
def extraScript (c : Config) : List Act := if c.tClearExtra = 0 then [] else [.pause c.tClearExtra]

/-- The cold start up to its power-on wait (42_controller.md R174). -/
def powerScript (c : Config) : List Act :=
  [.dirAll c.initDirMask, .dirPin c.pins.bl.val false, .latchPin c.pins.bl.val true,
   .latchPin c.pins.rs.val false, .latchPin c.pins.e.val false,
   .dirPin c.pins.rs.val false, .dirPin c.pins.e.val false, .dirPin c.pins.db4.val false,
   .dirPin c.pins.db5.val false, .dirPin c.pins.db6.val false, .dirPin c.pins.db7.val false,
   .pause c.tPower]

/-- The six command bytes of the cold start, in order (42_controller.md R175). -/
def coldBytes (c : Config) : List Byte :=
  [c.cmdFunctionSet, c.cmdDisplayOff, c.cmdClear, c.cmdEntryMode, c.cmdDisplayOn,
   c.cmdSetCursor ||| BitVec.ofNat 8 c.lineBaseTop]

/-- The cold start (42_controller.md R174). -/
def coldScript (c : Config) : List Act :=
  List.flatten
    [powerScript c,
     nibinitScript c 0x3, [.pause c.tS1], nibinitScript c 0x3, [.pause c.tS2], nibinitScript c 0x3, [.pause c.tS3],
     nibinitScript c 0x2, [.pause c.tS4],
     sendScript c c.cmdFunctionSet false, sendScript c c.cmdDisplayOff false,
     sendScript c c.cmdClear false, extraScript c,
     sendScript c c.cmdEntryMode false, sendScript c c.cmdDisplayOn false,
     sendScript c (c.cmdSetCursor ||| BitVec.ofNat 8 c.lineBaseTop) false]

/-- The cold start if the block is not initialised (42_controller.md R176). -/
def ensureScript (c : Config) (initialized : Bool) : List Act := if initialized then [] else coldScript c

/-- CLEAR on an initialised block (43_host_operations.md R201). -/
def clearScript (c : Config) : List Act :=
  sendScript c c.cmdClear false ++ extraScript c ++ sendScript c (cursorByte c 0 0) false

/-- `n` spaces sent as data (43_host_operations.md R202). -/
def spacesScript (c : Config) : Nat → List Act
  | 0     => []
  | n + 1 => sendScript c 0x20 true ++ spacesScript c n

/-- CLEARLINE on an initialised block: the set-cursor command of the line, then one space per column
(43_host_operations.md R202). -/
def clearlineScript (c : Config) (l : Line) : List Act :=
  sendScript c (cursorByte c (lineRow l) 0) false ++ spacesScript c c.columns

/-! ## How a request ends -/

/-- `t` is `s` after a request that completed without a fault: the expander is `x`, the trace grew by `es`, the response
is `(OK, data)`, the block is IDLE with no request; the fault record, the parameters and the host's moves are those of
`s` (10_state.md R25–R28). The session registers are named by each claim. -/
def Completes (s t : State) (x : Expander) (es : List Event) (data : Byte) : Prop :=
  t.phase = .idle ∧ t.position = none ∧ t.fault = s.fault ∧ t.cfg = s.cfg ∧ t.host = s.host ∧
  t.x = x ∧ t.trace = s.trace ++ es ∧ t.resp = response .ok data

/-- `t` is `s` after a request whose primitive `a` failed, after the events `es` and with the expander at `x`
(60_exceptions.md R224, R228). -/
def Faults (s t : State) (x : Expander) (es : List Event) (a : Action) : Prop :=
  t.phase = .faulted ∧ t.position = none ∧ t.fault = a.record ∧ t.cfg = s.cfg ∧ t.host = s.host ∧
  t.x = x ∧ t.trace = s.trace ++ es ++ [{ action := a, failed := true }] ∧ t.resp = response .transportFault 0

/-- The two session registers are unchanged (10_state.md R22, R23). -/
def SessionKept (s t : State) : Prop := t.initialized = s.initialized ∧ t.currentLine = s.currentLine

/-- What a fault at the `k`-th transport primitive (counted from 0) leaves of the trace of a run without it: the events
before it, and it, marked `!fail` (60_exceptions.md R228). -/
def faultPrefix : Nat → List Event → List Event
  | _, []      => []
  | k, e :: es =>
    if e.isTransport then
      match k with
      | 0     => [{ e with failed := true }]
      | k + 1 => e :: faultPrefix k es
    else e :: faultPrefix k es

/-- The events `t` adds to the trace of `s`. -/
def newEvents (s t : State) : List Event := t.trace.drop s.trace.length

/-- Each non-failed `RD` of `es` returns what the writes before it in trace order left in its register, when the
expander was `x` before `es` (20_memory.md R61). -/
def readsSeeWrites (c : Config) : Expander → List Event → Bool
  | _, []      => true
  | x, e :: es =>
    (match e.action with
      | .rd r v  => e.failed || (match regOfId c r with
        | some g => decide (x.get g = v)
        | none   => false)
      | .wr _ _  => true
      | .wb _ _  => true
      | .wait _  => true)
    && readsSeeWrites c (x.after c e) es

/-! ## Invariants -/

/-- The expander at power-on (70_reset_and_hazards.md R252). -/
def powerOnExpander (c : Config) : Expander := { dir := c.dirReset, latch := c.latchReset }

/-- The invariant of the machine: the parameters meet their constraints; `X.DIR` and `X.LATCH` are what the trace's
completed writes left (20_memory.md R55, R61); a step position exists exactly while BUSY (10_state.md R25, R27); a
fault is recorded exactly while FAULTED, then it is the record of the last event, which is marked `!fail`, and the
response says so (10_state.md R26, 60_exceptions.md R228); no wait is marked `!fail` (60_exceptions.md R224). -/
def Inv (s : State) : Prop :=
  s.cfg.wellFormed = true ∧
  s.x = (powerOnExpander s.cfg).replay s.cfg s.trace ∧
  (s.phase = .busy ↔ s.position.isSome = true) ∧
  (s.phase ≠ .faulted → s.fault = none) ∧
  (s.phase = .faulted → ∃ e, s.trace.getLast? = some e ∧ e.failed = true ∧ e.isTransport = true ∧
    s.fault = e.action.record ∧ s.resp = response .transportFault 0) ∧
  (∀ e ∈ s.trace, e.failed = true → e.isTransport = true)

/-- A safe state: no transport fault has ended the run (60_exceptions.md R229: "a run that reaches it fails every
claim"). -/
def State.Safe (s : State) : Prop := s.phase ≠ .faulted

/-! ## Comparing runs -/

/-- A state without its working image (10_state.md R24). -/
def State.forgetW (s : State) : State := { s with w := 0 }

/-- Apply a function to the next state of an outcome. -/
def mapNext (f : State → State) : Host.Outcome State Fault Refusal → Host.Outcome State Fault Refusal
  | .next s    => .next (f s)
  | .fault r   => .fault r
  | .refused r => .refused r

/-- `f` applied `n` times. -/
def iterate (f : State → State) : Nat → State → State
  | 0, s     => s
  | n + 1, s => iterate f n (f s)

/-- Execute a list of requests, one after the other, stopping at the first fault or refusal (10_state.md R35). -/
def execAll : List Instr → State → Host.Outcome State Fault Refusal
  | [], s      => .next s
  | i :: is, s =>
    match exec i s with
    | .next t    => execAll is t
    | .fault r   => .fault r
    | .refused r => .refused r

/-- The outcome is a next state. -/
def isNext : Host.Outcome State Fault Refusal → Bool
  | .next _    => true
  | .fault _   => false
  | .refused _ => false

/-- The next state of an outcome, or `d` when there is none. -/
def nextOr (d : State) : Host.Outcome State Fault Refusal → State
  | .next s    => s
  | .fault _   => d
  | .refused _ => d

end Sys2Proof.Machine
end

