-- ==== Sys2Proof/Certificates/Slice0/Obligations.lean ====
section
/-! DEFINITION. The statements for the provers. Each docstring names the rules of spec/ it formalises. A statement about
a request whose primitives read the latch holds under both read models (20_memory.md R54): `latchRead` is what such a
read returns, and its free bits under `READ_MODEL = port` are the opaque `Config.portDraw` (log 3). "The transport
answers" is `transportOk`, a condition on the free field `failures` (log 2). The final value of the working image `W` is
never stated (10_state.md R24, log 5). -/

open Sys2Proof Sys2Proof.Machine

/-! ## Encoding and decoding -/

/-- Words written out from 30_encoding.md R81 and R84 decode to their requests. Tier 1. -/
def Obligations.DecodeReadsTheSpecWords : Prop :=
  decode 0b0001000011111111#16 = .ok (.setdir 0xFF) ∧
  decode 0b0011011100000001#16 = .ok (.wrpin 7 true) ∧
  decode 0b0110000000000100#16 = .ok (.nibble 0x4) ∧
  decode 0b1000000101000001#16 = .ok (.sendbyte 0x41 true) ∧
  decode 0b1100000100010100#16 = .ok (.setcursor 1 20) ∧
  decode 0b1100111111111111#16 = .ok (.setcursor 15 (-1)) ∧
  decode 0b1101000000000001#16 = .ok (.linesel .bottom) ∧
  decode 0b1101000000000010#16 = .ok .lineselCur ∧
  decode 0b1110000000000000#16 = .ok .clear ∧
  decode 0b1111000000000001#16 = .ok (.clearline .bottom)

/-- Decoding the encoding of a well-formed request gives it back, with every operand at every value
(30_encoding.md R81, R82, R84). Tier 3. -/
def Obligations.DecodeOfEncodeGivesTheRequest : Prop :=
  ∀ i : Instr, i.wellFormed = true → decode (encode i) = .ok i

/-- Every word has one meaning: a word that decodes is the encoding of what it decodes to, which is well-formed
(30_encoding.md R80–R84). Tier 2. -/
def Obligations.EncodeOfDecodeGivesTheWord : Prop :=
  ∀ (w : Word) (i : Instr), decode w = .ok i → i.wellFormed = true ∧ encode i = w

/-- 30_encoding.md R83 and 60_exceptions.md R222: the illegal words are exactly those with opcode 0, a reserved bit set,
or 0xD003; offered to an IDLE block, such a word changes no state but the response, which is `ILLEGAL_REQUEST`, and the
next word is handled normally. The host's word is consumed. Tier 2. -/
def Obligations.IllegalWordsAreTheReservedOnesAndOnlyAnswer : Prop :=
  ∀ w : Word,
    ((∀ i, decode w ≠ .ok i) ↔
      (w.extractLsb' 12 4 = 0#4 ∨ w &&& reservedMask (w.extractLsb' 12 4) ≠ 0#16 ∨ w = 0xD003#16)) ∧
    ∀ (s : State) (rest : List HostMove), s.phase = .idle → s.host = .request w :: rest →
      (∀ i, decode w ≠ .ok i) →
      step s = .next { s with host := rest, resp := response .illegalRequest 0 } ∧
      ∀ (i : Instr) (more : List HostMove), rest = .request (encode i) :: more → i.wellFormed = true →
        step { s with host := rest, resp := response .illegalRequest 0 } =
          exec i { s with host := more, resp := response .illegalRequest 0 }

/-! ## Steps, phases and reset -/

/-- A step of an IDLE block whose host offers the word of a request is `exec` of that request, with the word consumed
(60_exceptions.md R231, R234). Tier 1. -/
def Obligations.StepRunsTheDecodedRequest : Prop :=
  ∀ (s : State) (w : Word) (i : Instr) (rest : List HostMove), s.phase = .idle → s.host = .request w :: rest →
    decode w = .ok i → step s = exec i { s with host := rest }

/-- 60_exceptions.md R234 and 10_state.md R25: a request is accepted only while IDLE, exactly one at a time, and each
runs to completion before the next: a request that answers a next state was offered to an IDLE block, and leaves it
IDLE or FAULTED with no request in progress (after a fault, the model's reading, log 12). Tier 2. -/
def Obligations.RequestsAreAcceptedOnlyWhileIdleAndRunToCompletion : Prop :=
  ∀ (i : Instr) (s : State),
    (s.phase = .idle → ∃ t, exec i s = .next t ∧ (t.phase = .idle ∨ t.phase = .faulted) ∧ t.position = none) ∧
    (s.phase ≠ .idle → ∀ t, exec i s ≠ .next t)

/-- 60_exceptions.md R229: a FAULTED block accepts no request and takes no step until the host resets it; the block
reset does leave FAULTED. Tier 1. -/
def Obligations.FaultedIsLeftOnlyByBlockReset : Prop :=
  ∀ s : State, s.phase = .faulted →
    (∀ i, exec i s = .fault .faulted) ∧
    ((∀ rest, s.host ≠ .blockReset :: rest) → step s = .fault .faulted) ∧
    (∀ rest, s.host = .blockReset :: rest → ∃ t, step s = .next t ∧ t.phase = .idle ∧ t.fault = none)

/-- 70_reset_and_hazards.md R250, R251: a block reset, in any phase, sets the block's registers to their reset values
and leaves the expander alone; the cold-start machine is UNPOWERED. That the trace, the parameters and the host's other
moves stay is the model's reading (log 14); the values of `W` and `RESP` are not stated (logs 5, 6). Tier 1. -/
def Obligations.BlockResetSetsTheBlockRegistersOnly : Prop :=
  ∀ (s : State) (rest : List HostMove), s.host = .blockReset :: rest →
    ∃ t, step s = .next t ∧ t.initialized = false ∧ t.currentLine = .top ∧ t.phase = .idle ∧ t.fault = none ∧
      t.position = none ∧ t.stage = .unpowered ∧ t.x = s.x ∧
      t.cfg = s.cfg ∧ t.trace = s.trace ∧ t.host = rest

/-- 70_reset_and_hazards.md R251, R252, R254: after power-on with any parameters the session registers, the phase and
the fault record have their reset values, the expander holds `DIR_RESET` and `LATCH_RESET`, whatever they are, and the
block waits for its first request. That a step without a host move leaves the state as it is, is the model's reading
(log 8). Tier 1. -/
def Obligations.PowerOnHoldsTheResetValuesAndWaits : Prop :=
  ∀ c : Config,
    (State.powerOn c).initialized = false ∧ (State.powerOn c).currentLine = .top ∧ (State.powerOn c).phase = .idle ∧
    (State.powerOn c).fault = none ∧ (State.powerOn c).position = none ∧ (State.powerOn c).stage = .unpowered ∧
    (State.powerOn c).x = { dir := c.dirReset, latch := c.latchReset } ∧ (State.powerOn c).cfg = c ∧
    step (State.powerOn c) = .next (State.powerOn c)

/-- 60_exceptions.md R224, R227: a request on an IDLE block ends FAULTED exactly when one of its transport primitives
fails, and otherwise completes with status OK, under either read model and whatever the draws. Tier 2. -/
def Obligations.RequestCompletesExactlyWhenTheTransportAnswers : Prop :=
  ∀ (i : Instr) (s : State), s.cfg.columns = 16 → s.phase = .idle →
    (transportOk (transports s.initialized i) s.failures = true →
      ∃ t, exec i s = .next t ∧ t.phase = .idle ∧ respStatus t.resp = Cause.ok.code) ∧
    (transportOk (transports s.initialized i) s.failures = false →
      ∃ t, exec i s = .next t ∧ t.phase = .faulted ∧ t.resp = response .transportFault 0)

/-- 60_exceptions.md R228: the transport fault is precise. When the transport primitive number `k` (from 0) of a request
fails, the trace is that of the same request under a transport that never fails, cut after that primitive's event, which
is marked `!fail`; the expander is what the completed events before it made of it; `S.fault` records the failing event,
the response and the phase say so. No session register write that follows the primitive happens: `S.initialized` turns
true only if the fault comes after the cold start's last primitive, and `S.currentLine` changes only if it comes after
CLEARLINE's set-cursor command. Nothing else is saved. Three points are the
model's reading: the byte in a failed `RD` event (log 11), that the position becomes "no request" (log 12, from 00_scope.md
R16), and that a fault after CLEARLINE's set-cursor command leaves the new line recorded (43_host_operations.md R202: "A
fault before `S.currentLine <- l` leaves it unchanged"), against R228's shorter "keeps its old value". Tier 3. -/
def Obligations.TransportFaultIsPrecise : Prop :=
  ∀ (i : Instr) (s u : State) (k : Nat) (ks : List Nat),
    s.cfg.wellFormed = true → s.phase = .idle → s.failures = k :: ks →
    k < transports s.initialized i → exec i { s with failures := [] } = .next u →
    ∃ t e, exec i s = .next t ∧
      t.trace = s.trace ++ faultPrefix k (newEvents s u) ∧
      t.trace.getLast? = some e ∧ e.failed = true ∧
      t.x = s.x.replay s.cfg (faultPrefix k (newEvents s u)) ∧
      t.fault = e.action.record ∧ e.action.record ≠ none ∧
      t.resp = 0x0100#16 ∧ t.phase = .faulted ∧ t.position = none ∧
      t.initialized = (s.initialized || (ensuresInit i && decide (initTransports s.initialized ≤ k))) ∧
      ((∀ l, i ≠ .clearline l) → t.currentLine = s.currentLine) ∧
      (∀ l, i = .clearline l →
        t.currentLine = if initTransports s.initialized + 10 ≤ k then l else s.currentLine) ∧
      t.cfg = s.cfg ∧ t.host = s.host

/-! ## Layer 1 -/

/-- 40_expander.md R121: `SETDIR b` is one buffer write; it sets `X.DIR` to b, or, if the write fails, leaves the
expander and raises the fault; no flags. On a fault the position
becomes "no request" (log 12). Tier 1. -/
def Obligations.SetdirWritesTheWholeDirectionRegister : Prop :=
  ∀ (b : Byte) (s : State), s.phase = .idle →
    encode (.setdir b) = 0x1000#16 ||| b.setWidth 16 ∧
    (transportOk 1 s.failures = true →
      ∃ t, exec (.setdir b) s = .next t ∧
        Completes s t { s.x with dir := b } [evWb s.cfg.regDir b] 0 ∧ SessionKept s t) ∧
    (transportOk 1 s.failures = false →
      ∃ t, exec (.setdir b) s = .next t ∧ Faults s t s.x [] (.wb s.cfg.regDir b) ∧ SessionKept s t)

/-- 40_expander.md R123 and R122: `PINMODE p, l` reads the direction register, replaces bit p and writes it back; a
fault at the read or the write leaves `X.DIR` unchanged; p > 7 is a no-op that answers OK; no flags. The byte shown by a
failed `RD` event is the model's reading (log 11), as is the position after a fault (log 12). Tier 2. -/
def Obligations.PinmodeReplacesOneDirectionBit : Prop :=
  ∀ (p : Nat) (l : Bool) (s : State), s.phase = .idle →
    (p ≤ 15 → encode (.pinmode p l) = 0x2000#16 ||| (BitVec.ofNat 16 p <<< 8) ||| (bitByte l).setWidth 16) ∧
    (p > 7 → ∃ t, exec (.pinmode p l) s = .next t ∧ Completes s t s.x [] 0 ∧ SessionKept s t) ∧
    (p ≤ 7 → transportOk 2 s.failures = true →
      ∃ t, exec (.pinmode p l) s = .next t ∧
        Completes s t { s.x with dir := setbit s.x.dir p l }
          [evRd s.cfg.regDir s.x.dir, evWr s.cfg.regDir (setbit s.x.dir p l)] 0 ∧ SessionKept s t) ∧
    (p ≤ 7 → transportOk 1 s.failures = false →
      ∃ t, exec (.pinmode p l) s = .next t ∧ Faults s t s.x [] (.rd s.cfg.regDir s.x.dir) ∧ SessionKept s t) ∧
    (p ≤ 7 → transportOk 1 s.failures = true → transportOk 2 s.failures = false →
      ∃ t, exec (.pinmode p l) s = .next t ∧
        Faults s t s.x [evRd s.cfg.regDir s.x.dir] (.wr s.cfg.regDir (setbit s.x.dir p l)) ∧ SessionKept s t)

/-- 40_expander.md R124 and R122: `WRPIN p, l` reads the latch register, replaces bit p and writes the whole byte back,
the other bits with the values just read; faults and p > 7 as for PINMODE; no flags. The byte
shown by a failed `RD` event is the model's reading (log 11), as is the position after a fault (log 12). Tier 2. -/
def Obligations.WrpinReplacesOneLatchBit : Prop :=
  ∀ (p : Nat) (l : Bool) (s : State) (v : Byte), s.phase = .idle → v = latchRead s.cfg s.x s.draws →
    (p ≤ 15 → encode (.wrpin p l) = 0x3000#16 ||| (BitVec.ofNat 16 p <<< 8) ||| (bitByte l).setWidth 16) ∧
    (p > 7 → ∃ t, exec (.wrpin p l) s = .next t ∧ Completes s t s.x [] 0 ∧ SessionKept s t) ∧
    (p ≤ 7 → transportOk 2 s.failures = true →
      ∃ t, exec (.wrpin p l) s = .next t ∧
        Completes s t { s.x with latch := setbit v p l }
          [evRd s.cfg.regLatch v, evWr s.cfg.regLatch (setbit v p l)] 0 ∧ SessionKept s t) ∧
    (p ≤ 7 → transportOk 1 s.failures = false →
      ∃ t, exec (.wrpin p l) s = .next t ∧ Faults s t s.x [] (.rd s.cfg.regLatch v) ∧ SessionKept s t) ∧
    (p ≤ 7 → transportOk 1 s.failures = true → transportOk 2 s.failures = false →
      ∃ t, exec (.wrpin p l) s = .next t ∧
        Faults s t s.x [evRd s.cfg.regLatch v] (.wr s.cfg.regLatch (setbit v p l)) ∧ SessionKept s t)

/-- 40_expander.md R125: `RDLATCH` reads the latch register and answers `(OK, the byte read)`; if the read fails the
response holds the fault status; the expander and the flags are unchanged. The byte shown by a failed `RD` event is the
model's reading (log 11), as is the position after a fault (log 12). Tier 1. -/
def Obligations.RdlatchAnswersTheByteRead : Prop :=
  ∀ (s : State) (v : Byte), s.phase = .idle → v = latchRead s.cfg s.x s.draws →
    encode .rdlatch = 0x4000#16 ∧
    (transportOk 1 s.failures = true →
      ∃ t, exec .rdlatch s = .next t ∧ Completes s t s.x [evRd s.cfg.regLatch v] v ∧ SessionKept s t) ∧
    (transportOk 1 s.failures = false →
      ∃ t, exec .rdlatch s = .next t ∧ Faults s t s.x [] (.rd s.cfg.regLatch v) ∧ SessionKept s t)

/-- 40_expander.md R126: `WRLATCH b` writes the whole latch register, the unused bit included; if the write fails
`X.LATCH` is unchanged; no flags. On a fault the position becomes "no request" (log 12). Tier 1. -/
def Obligations.WrlatchWritesTheWholeLatch : Prop :=
  ∀ (b : Byte) (s : State), s.phase = .idle →
    encode (.wrlatch b) = 0x5000#16 ||| b.setWidth 16 ∧
    (transportOk 1 s.failures = true →
      ∃ t, exec (.wrlatch b) s = .next t ∧
        Completes s t { s.x with latch := b } [evWr s.cfg.regLatch b] 0 ∧ SessionKept s t) ∧
    (transportOk 1 s.failures = false →
      ∃ t, exec (.wrlatch b) s = .next t ∧ Faults s t s.x [] (.wr s.cfg.regLatch b) ∧ SessionKept s t)

/-- 40_expander.md R127, the preservation law: under `READ_MODEL = latch` a `WRPIN p, L` with p in 0..7 that completes
leaves bit p of the latch at L and every other bit as it was, and a following `RDLATCH` answers that value; the same for
`PINMODE` and the direction register. Tier 2. -/
def Obligations.ReadModifyWritePreservesOtherBits : Prop :=
  ∀ (p : Fin 8) (l : Bool) (s : State), s.phase = .idle → s.cfg.readModel = .latch →
    transportOk 3 s.failures = true →
    (∃ t u, exec (.wrpin p.val l) s = .next t ∧ exec .rdlatch t = .next u ∧
      t.x.latch.getLsbD p.val = l ∧ (∀ i, i ≠ p.val → t.x.latch.getLsbD i = s.x.latch.getLsbD i) ∧
      t.x.dir = s.x.dir ∧ u.resp = response .ok t.x.latch) ∧
    (∃ t, exec (.pinmode p.val l) s = .next t ∧
      t.x.dir.getLsbD p.val = l ∧ (∀ i, i ≠ p.val → t.x.dir.getLsbD i = s.x.dir.getLsbD i) ∧
      t.x.latch = s.x.latch)

/-- 40_expander.md R128, 60_exceptions.md R223: for every p > 7 and every l, WRPIN and PINMODE append no event, change
neither register, raise nothing and answer `(OK, 0x00)`, whatever the transport would do. Tier 1. -/
def Obligations.PinAboveSevenIsNoOp : Prop :=
  ∀ (p : Nat) (l : Bool) (s : State), p > 7 → s.phase = .idle →
    ∀ i : Instr, i = .wrpin p l ∨ i = .pinmode p l →
      ∃ t, exec i s = .next t ∧ t.trace = s.trace ∧ t.x = s.x ∧ t.phase = .idle ∧ t.fault = s.fault ∧
        t.resp = response .ok 0 ∧ t.failures = s.failures ∧ t.initialized = s.initialized ∧
        t.currentLine = s.currentLine

/-- 40_expander.md R129: under `READ_MODEL = latch` no request but SETDIR and WRLATCH, and PINMODE and WRPIN at that
position, changes a latch bit outside `PIN_MAP`, nor a direction bit outside `PIN_MAP` except the cold start's own
SETDIR, which sets it to `INIT_DIR_MASK`'s; faults included. Tier 2. -/
def Obligations.TheUnusedBitIsNeverTouched : Prop :=
  ∀ (i : Instr) (s t : State) (q : Fin 8), s.cfg.readModel = .latch → q ∉ s.cfg.pins.positions →
    exec i s = .next t → (∀ b, i ≠ .setdir b) → (∀ b, i ≠ .wrlatch b) →
    (∀ l, i ≠ .pinmode q.val l) → (∀ l, i ≠ .wrpin q.val l) →
    t.x.latch.getLsbD q.val = s.x.latch.getLsbD q.val ∧
    (t.x.dir.getLsbD q.val = s.x.dir.getLsbD q.val ∨
      (s.initialized = false ∧ (i = .init ∨ i = .clear ∨ ∃ l, i = .clearline l) ∧
        t.x.dir.getLsbD q.val = s.cfg.initDirMask.getLsbD q.val))

/-- 20_memory.md R54: a read of the direction register returns `X.DIR`; a latch read under `READ_MODEL = latch` returns
`X.LATCH`; under `port` it returns the latch bit of each output pin, and the draw's bit for each input pin. Tier 1. -/
def Obligations.ReadsReturnTheRegisterOrThePins : Prop :=
  ∀ s : State,
    s.readValue .dir = s.x.dir ∧
    (s.cfg.readModel = .latch → s.readValue .latch = s.x.latch) ∧
    (s.cfg.readModel = .port → ∀ i, (s.readValue .latch).getLsbD i =
      if s.x.dir.getLsbD i then (Config.portDraw s.draws).getLsbD i else s.x.latch.getLsbD i)

/-- 70_reset_and_hazards.md R269: under either read model a completed WRPIN sets its bit and keeps the latch bit of
every other output pin. Tier 2. -/
def Obligations.WrpinKeepsTheOtherOutputPinsUnderAnyReadModel : Prop :=
  ∀ (p : Fin 8) (l : Bool) (s : State), s.phase = .idle → transportOk 2 s.failures = true →
    ∃ t, exec (.wrpin p.val l) s = .next t ∧ t.x.latch.getLsbD p.val = l ∧ t.x.dir = s.x.dir ∧
      ∀ i, i ≠ p.val → s.x.dir.getLsbD i = false → t.x.latch.getLsbD i = s.x.latch.getLsbD i

/-! ## Layer 2 -/

/-- 41_parallel_bus.md R141: `NIBBLE n` emits exactly its seven events and leaves the latch at the nibble's image of the
value read, E low; the direction register and the flags are unchanged. Tier 2. -/
def Obligations.NibbleStrobesTheImageOfTheValueRead : Prop :=
  ∀ (n : Nibble) (s : State) (v w : Byte), s.phase = .idle → transportOk 4 s.failures = true →
    v = latchRead s.cfg s.x s.draws →
    w = setbit (setbit (setbit (setbit (setbit v s.cfg.pins.db4 (n.getLsbD 0)) s.cfg.pins.db5 (n.getLsbD 1))
      s.cfg.pins.db6 (n.getLsbD 2)) s.cfg.pins.db7 (n.getLsbD 3)) s.cfg.pins.e false →
    encode (.nibble n) = 0x6000#16 ||| n.setWidth 16 ∧
    ∃ t, exec (.nibble n) s = .next t ∧ SessionKept s t ∧
      Completes s t { s.x with latch := w }
        [evRd s.cfg.regLatch v, evWr s.cfg.regLatch w, evWait s.cfg.tSetup,
         evWr s.cfg.regLatch (setbit w s.cfg.pins.e true), evWait s.cfg.tPulse,
         evWr s.cfg.regLatch w, evWait s.cfg.tHold] 0

/-- 41_parallel_bus.md R142: `NIBINIT n` performs its script, the data lines one at a time and then a full pulse of E,
and touches nothing else. Tier 2. -/
def Obligations.NibinitPerformsTheColdStartNibble : Prop :=
  ∀ (n : Nibble) (s : State), s.phase = .idle → transportOk 14 s.failures = true →
    encode (.nibinit n) = 0x7000#16 ||| n.setWidth 16 ∧
    ∃ t, exec (.nibinit n) s = .next t ∧ SessionKept s t ∧
      Completes s t (playEnd s.cfg s.x s.draws (nibinitScript s.cfg n))
        (playEvents s.cfg s.x s.draws (nibinitScript s.cfg n)) 0

/-- 41_parallel_bus.md R143: `SENDBYTE b, m` sets RS to m once, then sends the high nibble, then the low nibble, and
touches nothing else. Tier 2. -/
def Obligations.SendbyteSendsHighNibbleThenLowNibble : Prop :=
  ∀ (b : Byte) (m : Bool) (s : State), s.phase = .idle → transportOk 10 s.failures = true →
    encode (.sendbyte b m) = 0x8000#16 ||| ((bitByte m).setWidth 16 <<< 8) ||| b.setWidth 16 ∧
    ∃ t, exec (.sendbyte b m) s = .next t ∧ SessionKept s t ∧
      Completes s t (playEnd s.cfg s.x s.draws [.latchPin s.cfg.pins.rs m, .nib (highNibble b), .nib (lowNibble b)])
        (playEvents s.cfg s.x s.draws [.latchPin s.cfg.pins.rs m, .nib (highNibble b), .nib (lowNibble b)]) 0

/-- 41_parallel_bus.md R144: each of NIBBLE, NIBINIT and SENDBYTE completes with exactly its events, whatever its
operands, the expander, the read model and the parameters; with any parameters that meet the lower bounds of the waits,
the waits sum to at least 102, 4 and 204 time units, and with the default ones to exactly that. Tier 2. -/
def Obligations.TransactionCountsAreFixed : Prop :=
  ∀ s : State, s.phase = .idle →
    (∀ n, transportOk 4 s.failures = true → ∃ t, exec (.nibble n) s = .next t ∧
      countEvents (newEvents s t) = { rd := 1, wr := 3, wait := 3, total := 7 } ∧
      (s.cfg.waitsOk = true → 102 ≤ waitUnits (newEvents s t)) ∧
      (s.cfg = defaultConfig → waitUnits (newEvents s t) = 102)) ∧
    (∀ n, transportOk 14 s.failures = true → ∃ t, exec (.nibinit n) s = .next t ∧
      countEvents (newEvents s t) = { rd := 7, wr := 7, wait := 4, total := 18 } ∧
      (s.cfg.waitsOk = true → 4 ≤ waitUnits (newEvents s t)) ∧
      (s.cfg = defaultConfig → waitUnits (newEvents s t) = 4)) ∧
    (∀ b m, transportOk 10 s.failures = true → ∃ t, exec (.sendbyte b m) s = .next t ∧
      countEvents (newEvents s t) = { rd := 3, wr := 7, wait := 6, total := 16 } ∧
      (s.cfg.waitsOk = true → 204 ≤ waitUnits (newEvents s t)) ∧
      (s.cfg = defaultConfig → waitUnits (newEvents s t) = 204))

/-- 41_parallel_bus.md R145: when NIBBLE, NIBINIT or SENDBYTE completes, E is low in the latch; and of a NIBBLE's three
writes the second raises E, the third lowers it, and they differ in no other bit. Tier 2. -/
def Obligations.EnableIsLowAfterEveryTransfer : Prop :=
  ∀ (i : Instr) (s t : State), ((∃ n, i = .nibble n) ∨ (∃ n, i = .nibinit n) ∨ (∃ b m, i = .sendbyte b m)) →
    exec i s = .next t → t.Safe →
    t.x.latch.getLsbD s.cfg.pins.e.val = false ∧
    ((∃ n, i = .nibble n) → ∃ r a b c, (newEvents s t).filter Event.isWrite =
        [evWr r a, evWr r b, evWr r c] ∧
      a.getLsbD s.cfg.pins.e.val = false ∧ b.getLsbD s.cfg.pins.e.val = true ∧ c.getLsbD s.cfg.pins.e.val = false ∧
      ∀ j, j ≠ s.cfg.pins.e.val → b.getLsbD j = c.getLsbD j)

/-- 30_encoding.md R88: a nibble is placed by one `setbit` per data line, DB4..DB7 from bits 0..3, with any `PIN_MAP`;
with the default one this is `(W & ~0x78) | (n << 3)`. Tier 1. -/
def Obligations.NibblePlacementFollowsTheSpec : Prop :=
  (∀ (p : PinMap) (v : Byte) (n : Nibble),
    placeNibble p v n = [(p.db4, 0), (p.db5, 1), (p.db6, 2), (p.db7, 3)].foldl
      (fun w (k : Fin 8 × Nat) => setbit w k.1.val (n.getLsbD k.2)) v) ∧
  ∀ (v : Byte) (n : Nibble), placeNibble defaultPins v n = (v &&& ~~~0x78#8) ||| (n.setWidth 8 <<< 3)

/-- 41_parallel_bus.md R141, R142 and 70_reset_and_hazards.md R265: with distinct pins and `READ_MODEL = latch`, NIBBLE
and NIBINIT leave the four data lines at the nibble and every position but those four and E (RS, BL and the unused bit
among them) as it was. Tier 2. -/
def Obligations.NibblesKeepRsBacklightAndUnusedBit : Prop :=
  ∀ (n : Nibble) (s : State) (i : Instr), i = .nibble n ∨ i = .nibinit n → s.phase = .idle →
    s.cfg.readModel = .latch → s.cfg.pins.distinct = true → transportOk 14 s.failures = true →
    ∃ t, exec i s = .next t ∧ t.x.dir = s.x.dir ∧
      t.x.latch.getLsbD s.cfg.pins.db4.val = n.getLsbD 0 ∧ t.x.latch.getLsbD s.cfg.pins.db5.val = n.getLsbD 1 ∧
      t.x.latch.getLsbD s.cfg.pins.db6.val = n.getLsbD 2 ∧ t.x.latch.getLsbD s.cfg.pins.db7.val = n.getLsbD 3 ∧
      ∀ q : Fin 8, q ∉ s.cfg.pins.e :: dataPins s.cfg.pins →
        t.x.latch.getLsbD q.val = s.x.latch.getLsbD q.val

/-! ## Layer 3 -/

/-- 42_controller.md R170, R171, R172: SENDCMD sends its byte as SENDBYTE does under RS = 0, SENDCHAR under RS = 1: the
next states differ from SENDBYTE's in nothing, whatever the transport does. Each completes when the transport answers.
Tier 2. -/
def Obligations.CommandAndCharacterDispatchToSendbyte : Prop :=
  ∀ (b : Byte) (s : State), s.phase = .idle →
    exec (.sendcmd b) s = exec (.sendbyte b false) s ∧ exec (.sendchar b) s = exec (.sendbyte b true) s ∧
    encode (.sendcmd b) = 0x9000#16 ||| b.setWidth 16 ∧ encode (.sendchar b) = 0xA000#16 ||| b.setWidth 16 ∧
    (transportOk 10 s.failures = true →
      ∃ t u, exec (.sendcmd b) s = .next t ∧ exec (.sendchar b) s = .next u ∧ SessionKept s t ∧ SessionKept s u ∧
        Completes s t (playEnd s.cfg s.x s.draws (sendScript s.cfg b false))
          (playEvents s.cfg s.x s.draws (sendScript s.cfg b false)) 0 ∧
        Completes s u (playEnd s.cfg s.x s.draws (sendScript s.cfg b true))
          (playEvents s.cfg s.x s.draws (sendScript s.cfg b true)) 0)

/-- 42_controller.md R174, R176: INIT on a block that is not initialised performs the cold start, sets `S.initialized`
and leaves `S.currentLine`; every LCD line and BL end as outputs, the unused direction bit as in `INIT_DIR_MASK`, BL
high, RS and E low. Under either read model. Tier 2. -/
def Obligations.InitPerformsTheColdStart : Prop :=
  ∀ s : State, s.phase = .idle → s.initialized = false → s.cfg.pins.distinct = true →
    transportOk 137 s.failures = true →
    ∃ t, exec .init s = .next t ∧
      Completes s t (playEnd s.cfg s.x s.draws (coldScript s.cfg)) (playEvents s.cfg s.x s.draws (coldScript s.cfg)) 0 ∧
      t.initialized = true ∧ t.currentLine = s.currentLine ∧
      (∀ q : Fin 8, t.x.dir.getLsbD q.val =
        if q ∈ s.cfg.pins.positions then false else s.cfg.initDirMask.getLsbD q.val) ∧
      t.x.latch.getLsbD s.cfg.pins.bl.val = true ∧ t.x.latch.getLsbD s.cfg.pins.rs.val = false ∧
      t.x.latch.getLsbD s.cfg.pins.e.val = false

/-- 42_controller.md R174: with the default parameters, from any expander state, the cold start emits exactly 194
events, 1 `WB`, 56 `RD`, 80 `WR` and 57 `WAIT`, its waits are at least 205540 time units, it leaves `X.DIR` = 0x01,
and DB7..DB4 low. Tier 2. -/
def Obligations.DefaultColdStartEmits194Events : Prop :=
  ∀ s : State, s.phase = .idle → s.initialized = false → s.cfg = defaultConfig → transportOk 137 s.failures = true →
    ∃ t, exec .init s = .next t ∧
      countEvents (newEvents s t) = { rd := 56, wr := 80, wait := 57, total := 194 } ∧
      (newEvents s t).head? = some (evWb 0x00 0xFF) ∧
      waitUnits (newEvents s t) = 205540 ∧
      t.x.dir = 0x01#8 ∧ t.x.latch = setbit 0x80#8 0 (s.x.latch.getLsbD 0)

/-- 42_controller.md R176: INIT on an initialised block emits no event and changes nothing but the response, whatever
the transport would do. Tier 1. -/
def Obligations.SecondInitIsIdempotent : Prop :=
  ∀ s : State, s.phase = .idle → s.initialized = true →
    ∃ t, exec .init s = .next t ∧ Completes s t s.x [] 0 ∧ SessionKept s t ∧ t.failures = s.failures

/-- 42_controller.md R177, the exactly-once law: a run of requests without a fault, on a block that is not initialised,
emits the events of each request on an initialised block, and the cold start's once if any of them is INIT, CLEAR or
CLEARLINE, and then only; `S.initialized` ends true exactly in that case. The cold start's events stand at the head of
the first such request's; before it the block is not initialised, from it on it is, and every later INIT emits nothing.
Tier 3. -/
def Obligations.ColdStartRunsExactlyOnce : Prop :=
  ∀ (is : List Instr) (s t : State), s.initialized = false → s.cfg.columns = 16 →
    execAll is s = .next t → t.Safe →
    t.initialized = is.any ensuresInit ∧
    (newEvents s t).length =
      (is.map (eventsOf s.cfg)).sum + (if is.any ensuresInit then coldEvents s.cfg else 0) ∧
    ∀ (pre post : List Instr) (i : Instr), is = pre ++ i :: post → pre.any ensuresInit = false →
      ensuresInit i = true →
      ∃ u v, execAll pre s = .next u ∧ exec i u = .next v ∧ execAll post v = .next t ∧
        u.initialized = false ∧ v.initialized = true ∧
        playEvents u.cfg u.x u.draws (coldScript u.cfg) <+: newEvents u v ∧
        (newEvents v t).length = (post.map (eventsOf s.cfg)).sum

/-- 10_state.md R22: no step but a block reset clears `S.initialized`, and only INIT, CLEAR and CLEARLINE set it: a step
that changes it ran one of them. Tier 2. -/
def Obligations.InitializedIsMonotone : Prop :=
  (∀ (i : Instr) (s t : State), exec i s = .next t →
    (s.initialized = true → t.initialized = true) ∧
    (t.initialized ≠ s.initialized → ensuresInit i = true)) ∧
  (∀ s t : State, (∀ rest, s.host ≠ .blockReset :: rest) → step s = .next t →
    s.initialized = true → t.initialized = true)

/-- 10_state.md R23: only LINESEL and CLEARLINE write `S.currentLine`, with the line they select, and only when they do
not fault before it; INIT, CLEAR, SETCURSOR and the rest leave it. Tier 2. -/
def Obligations.OnlyLineOperationsWriteTheCurrentLine : Prop :=
  ∀ (i : Instr) (s t : State), exec i s = .next t →
    ((∀ l, i ≠ .linesel l) → (∀ l, i ≠ .clearline l) → t.currentLine = s.currentLine) ∧
    (∀ l, i = .linesel l → t.currentLine = if t.phase = .idle then l else s.currentLine) ∧
    (∀ l, i = .clearline l → (t.phase = .idle → t.currentLine = l) ∧
      (t.currentLine = l ∨ t.currentLine = s.currentLine))

/-- 42_controller.md R178: the column clamp over all integers, and its idempotence. Tier 1. -/
def Obligations.ColumnClampFollowsTheSpec : Prop :=
  ∀ c : Int, (c ≤ 0 → clampedColumn 16 c = 0) ∧ (1 ≤ c → c ≤ 15 → (clampedColumn 16 c : Int) = c) ∧
    (16 ≤ c → clampedColumn 16 c = 15) ∧ clampedColumn 16 (clampedColumn 16 c) = clampedColumn 16 c

/-- 42_controller.md R179, 30_encoding.md R91: with the default geometry a position is 0x00–0x0F on the top line
(row ≤ 0) and 0x40–0x4F on the bottom line (row > 0), and the set-cursor byte has bit 7 set and the position below it.
Tier 2. -/
def Obligations.CursorByteCarriesThePosition : Prop :=
  ∀ row col : Int,
    position defaultConfig row col = (if row > 0 then 0x40 else 0x00) + clampedColumn 16 col ∧
    clampedColumn 16 col ≤ 15 ∧
    (cursorByte defaultConfig row col).getLsbD 7 = true ∧
    ((cursorByte defaultConfig row col).extractLsb' 0 7).toNat = position defaultConfig row col

/-- 42_controller.md R180: SETCURSOR sends the set-cursor byte of its row and column as a command, does not write
`S.currentLine`, and D0's examples send 0x85, 0xC0 and 0xCF. For parameters other than the default, the clamp to
COLUMNS − 1 is the model's reading (log 24), and a position of more than 7 bits is the model's choice (log 26). Tier
2. -/
def Obligations.SetcursorSendsTheCursorByte : Prop :=
  (∀ (r : Nat) (c : Int) (s : State), s.phase = .idle →
    exec (.setcursor r c) s = exec (.sendbyte (cursorByte s.cfg r c) false) s ∧
    (transportOk 10 s.failures = true →
      ∃ t, exec (.setcursor r c) s = .next t ∧ SessionKept s t ∧
        Completes s t (playEnd s.cfg s.x s.draws (sendScript s.cfg (cursorByte s.cfg r c) false))
          (playEvents s.cfg s.x s.draws (sendScript s.cfg (cursorByte s.cfg r c) false)) 0)) ∧
  cursorByte defaultConfig 0 5 = 0x85#8 ∧ cursorByte defaultConfig 1 0 = 0xC0#8 ∧
  cursorByte defaultConfig 1 20 = 0xCF#8

/-- 42_controller.md R181: `LINESEL l` sends the set-cursor byte of the line's start and records the line; `LINESEL
cur` takes the line from `S.currentLine`; a fault leaves `S.currentLine`. A line base whose position exceeds 7 bits
is the model's choice (log 26). Tier 2. -/
def Obligations.LineselSendsTheLineStartAndRecordsTheLine : Prop :=
  ∀ (s : State) (i : Instr) (line : Line), s.phase = .idle →
    i = .linesel line ∨ (i = .lineselCur ∧ line = s.currentLine) →
    (transportOk 10 s.failures = true →
      ∃ t, exec i s = .next t ∧ t.initialized = s.initialized ∧ t.currentLine = line ∧
        Completes s t (playEnd s.cfg s.x s.draws (sendScript s.cfg (cursorByte s.cfg (lineRow line) 0) false))
          (playEvents s.cfg s.x s.draws (sendScript s.cfg (cursorByte s.cfg (lineRow line) 0) false)) 0) ∧
    (transportOk 10 s.failures = false →
      ∃ t, exec i s = .next t ∧ t.phase = .faulted ∧ SessionKept s t)

/-! ## Public operations -/

/-- 43_host_operations.md R200, R201: CLEAR runs the ensure-initialised check first, then sends the clear command and
the set-cursor command of the top line's home; it leaves `S.currentLine` (R209) and the block initialised. A line
base whose position exceeds 7 bits is the model's choice (log 26). Tier 2. -/
def Obligations.ClearSendsClearThenHome : Prop :=
  ∀ s : State, s.phase = .idle → transportOk (initTransports s.initialized + 20) s.failures = true →
    ∃ t, exec .clear s = .next t ∧ t.initialized = true ∧ t.currentLine = s.currentLine ∧
      Completes s t (playEnd s.cfg s.x s.draws (ensureScript s.cfg s.initialized ++ clearScript s.cfg))
        (playEvents s.cfg s.x s.draws (ensureScript s.cfg s.initialized ++ clearScript s.cfg)) 0 ∧
      (s.initialized = true → s.cfg = defaultConfig →
        countEvents (newEvents s t) = { rd := 6, wr := 14, wait := 12, total := 32 })

/-- 43_host_operations.md R200, R202: CLEARLINE runs the ensure-initialised check first, then sends the set-cursor
command of the line's start, records the line, and sends one space per column as data, never the clear command. A
line base whose position exceeds 7 bits is the model's choice (log 26). Tier 2. -/
def Obligations.ClearlineWritesOneSpacePerColumn : Prop :=
  ∀ (l : Line) (s : State), s.phase = .idle → s.cfg.columns = 16 →
    transportOk (initTransports s.initialized + 170) s.failures = true →
    ∃ t, exec (.clearline l) s = .next t ∧ t.initialized = true ∧ t.currentLine = l ∧
      Completes s t (playEnd s.cfg s.x s.draws (ensureScript s.cfg s.initialized ++ clearlineScript s.cfg l))
        (playEvents s.cfg s.x s.draws (ensureScript s.cfg s.initialized ++ clearlineScript s.cfg l)) 0 ∧
      (s.initialized = true →
        countEvents (newEvents s t) = { rd := 51, wr := 119, wait := 102, total := 272 })

/-- 43_host_operations.md R209, the clear asymmetry: after selecting the bottom line and clearing the display,
`LINESEL cur` (the start of a `log`) goes to the bottom line again. A line base whose position exceeds 7 bits is the
model's choice (log 26). Tier 2. -/
def Obligations.ClearLeavesTheCurrentLineRecord : Prop :=
  ∀ s : State, s.phase = .idle → s.initialized = true → transportOk 40 s.failures = true →
    ∃ t u v, exec (.linesel .bottom) s = .next t ∧ exec .clear t = .next u ∧ exec .lineselCur u = .next v ∧
      u.currentLine = .bottom ∧ v.currentLine = .bottom ∧ v.phase = .idle ∧
      v.trace = u.trace ++ playEvents u.cfg u.x u.draws (sendScript u.cfg (cursorByte u.cfg 1 0) false)

/-- 43_host_operations.md R203, R210: the expansion of `writeLine` is INIT, LINESEL and exactly COLUMNS SENDCHARs,
sixteen by default, the text padded with spaces and cut to that width; padding again changes nothing; a text whose
characters up to the width encode is not refused. The rules write 16; that another COLUMNS (00_scope.md R8) takes its
place is the model's reading (log 24). Tier 2. -/
def Obligations.WriteLineSendsSixteenCharacters : Prop :=
  ∀ (c : Config) (l : Line) (s : Text),
    (∀ is, writeLine c l s = some is →
      ∃ cs, is = .init :: .linesel l :: cs ∧ cs.length = c.columns ∧
        ∀ k, k < c.columns → ∃ ch, (s ++ List.replicate c.columns ' ')[k]? = some ch ∧ ch.toNat ≤ 0xFF ∧
          cs[k]? = some (.sendchar (BitVec.ofNat 8 ch.toNat))) ∧
    fitLine c.columns (fitLine c.columns s) = fitLine c.columns s ∧ (fitLine c.columns s).length = c.columns ∧
    ((∀ ch ∈ s.take c.columns, ch.toNat ≤ 0xFF) → ∃ is, writeLine c l s = some is) ∧
    defaultConfig.columns = 16

/-- 43_host_operations.md R204: the expansion of `writeText` is INIT, SETCURSOR with row 1 if `row > 0` and else 0
and with the clamped column, and one SENDCHAR per character, neither padded nor cut. The SETCURSOR encodes (on a
display of at most 128 columns) and forms the position of the unclamped row and column. The rules clamp to 15; the
clamp to another COLUMNS − 1 (00_scope.md R8), and with it the bound of 128, is the model's reading (log 24). Tier 2. -/
def Obligations.WriteTextMovesThenSendsEveryCharacter : Prop :=
  ∀ (c : Config) (row col : Int) (s : Text), (∀ ch ∈ s, ch.toNat ≤ 0xFF) →
    writeText c row col s = some (.init :: .setcursor (if row > 0 then 1 else 0) (clampedColumn c.columns col) ::
      s.map (fun ch => .sendchar (BitVec.ofNat 8 ch.toNat))) ∧
    (c.columns ≤ 128 →
      (Instr.setcursor (if row > 0 then 1 else 0) (clampedColumn c.columns col)).wellFormed = true) ∧
    cursorByte c ((if row > 0 then 1 else 0 : Nat) : Int) (clampedColumn c.columns col) = cursorByte c row col

/-- 43_host_operations.md R205, R206: `log` and `logValue` expand to INIT, LINESEL cur and the COLUMNS characters of
their padded and cut text, for every number format, when the characters of the text up to that width encode; no later
character is examined. The rules write 16; that another COLUMNS (00_scope.md R8) takes its place is the model's
reading (log 24). Number formats are those of the integers. Tier 2. -/
def Obligations.LogWritesToTheRecordedLine : Prop :=
  ∀ (c : Config) (numfmt : Int → Text) (label : Text) (v : Int),
    ((∀ ch ∈ (numfmt v).take c.columns, ch.toNat ≤ 0xFF) →
      logNumber c numfmt v = some (.init :: .lineselCur ::
        ((numfmt v ++ List.replicate c.columns ' ').take c.columns).map
          (fun ch => .sendchar (BitVec.ofNat 8 ch.toNat)))) ∧
    ((∀ ch ∈ (label ++ [':'] ++ numfmt v).take c.columns, ch.toNat ≤ 0xFF) →
      logValue c numfmt label v = some (.init :: .lineselCur ::
        ((label ++ [':'] ++ numfmt v ++ List.replicate c.columns ' ').take c.columns).map
          (fun ch => .sendchar (BitVec.ofNat 8 ch.toNat))))

/-- 43_host_operations.md R207, 60_exceptions.md R226: a text operation, `writeLine`, `writeText`, `log` or
`logValue`, with a code point above 0xFF among the characters it sends is refused whole, and issues no request to the
block. The rules examine 16 characters of a padded text; that another COLUMNS (00_scope.md R8) takes its place is the
model's reading (log 24). Tier 2. -/
def Obligations.UnencodableTextIssuesNoRequest : Prop :=
  ∀ (c : Config) (l : Line) (row col : Int) (s : Text) (numfmt : Int → Text) (v : Int) (t : State),
    ((∃ ch ∈ s.take c.columns, ch.toNat > 0xFF) → writeLine c l s = none ∧ t.issue (writeLine c l s) = t) ∧
    ((∃ ch ∈ s, ch.toNat > 0xFF) → writeText c row col s = none ∧ t.issue (writeText c row col s) = t) ∧
    ((∃ ch ∈ (numfmt v).take c.columns, ch.toNat > 0xFF) →
      logNumber c numfmt v = none ∧ t.issue (logNumber c numfmt v) = t) ∧
    ((∃ ch ∈ (s ++ [':'] ++ numfmt v).take c.columns, ch.toNat > 0xFF) →
      logValue c numfmt s v = none ∧ t.issue (logValue c numfmt s v) = t)

/-! ## The whole machine -/

/-- The invariant holds at reset. It rests on the defaults of the parameters. Tier 1. -/
def Obligations.ResetMeetsTheInvariant : Prop := Inv State.reset

/-- Every step keeps the invariant (20_memory.md R55, R61; 10_state.md R25–R27; 60_exceptions.md R228): from every
state that meets it, a next state meets it. Across a block reset the clause about the trace rests on the trace staying (log 14),
and at a fault the clause about the position on its becoming "no request" (log 12): the model's readings. Tier 3. -/
def Obligations.EveryStepKeepsTheInvariant : Prop :=
  ∀ s t : State, Inv s → step s = .next t → Inv t

/-- No step writes the parameters, and the trace only grows (00_scope.md R9, 10_state.md R31). That every
parameter is fixed, beside `PIN_MAP`, is log 1, and that a block reset keeps the trace is log 14: the model's choices.
Tier 2. -/
def Obligations.ParametersAreFixedAndTheTraceOnlyGrows : Prop :=
  ∀ s t : State, step s = .next t → t.cfg = s.cfg ∧ ∃ es, t.trace = s.trace ++ es

/-- 20_memory.md R61: sequential consistency. Under `READ_MODEL = latch`, in the events a request adds, every completed
read returns what the last completed write before it in trace order left, starting from the expander before the
request; and the expander after the request is what those events made of it. Tier 3. -/
def Obligations.ReadsObserveTheLastWrite : Prop :=
  ∀ (i : Instr) (s t : State), s.cfg.readModel = .latch → s.cfg.regDir ≠ s.cfg.regLatch → exec i s = .next t →
    readsSeeWrites s.cfg s.x (newEvents s t) = true ∧ t.x = s.x.replay s.cfg (newEvents s t)

/-- 10_state.md R24: `W` carries nothing from one request to the next: with any other value of `W` before a request,
its outcome differs at most in `W`. Tier 2. -/
def Obligations.TheWorkingImageCarriesNothingBetweenRequests : Prop :=
  ∀ (i : Instr) (s : State) (b : Byte),
    mapNext State.forgetW (exec i { s with w := b }) = mapNext State.forgetW (exec i s)

/-- 10_state.md R27: the step position is the request and the index of its next primitive; a tick that executes a
primitive emits its one event and moves the index by one, any other tick emits nothing and leaves the index, and after
the last the position is "no request". The model's tick executes one statement, of which the primitives are some (log
27), and running a request to completion inside one step (log 7) is ticking it until no statement is left, once more to
complete it. Tier 3. -/
def Obligations.RunningARequestIsTickingItToItsEnd : Prop :=
  (∀ s : State, s.phase = .busy → s.finish = iterate State.tick (s.remaining.length + 1) s) ∧
  (∀ (s : State) (p : Position) (m : Micro), s.phase = .busy → s.position = some p → p.expansion[p.next]? = some m →
    (m.isPrimitive = true → p.primitives[p.index]? = some m) ∧
    s.tick.trace.length = s.trace.length + (if m.isPrimitive then 1 else 0) ∧
    ((s.tick.phase = .busy ∧ s.tick.position = some { p with next := p.next + 1 } ∧
      s.tick.stepPosition = some (p.request, if m.isPrimitive then p.index + 1 else p.index)) ∨
     s.tick.phase = .faulted)) ∧
  (∀ (s : State) (p : Position), s.phase = .busy → s.position = some p → p.expansion.length ≤ p.next →
    s.tick.phase = .idle ∧ s.tick.stepPosition = none ∧ s.tick.trace = s.trace)

/-- 42_controller.md R173: the cold-start machine is linear: while an INIT, or a CLEAR or CLEARLINE with the cold start as
its first statement (43_host_operations.md R200), runs on a block that is not initialised, no tick takes it back, unless
the request ends in a fault. Tier 2. -/
def Obligations.TheColdStartMachineNeverGoesBack : Prop :=
  ∀ (s u : State) (i : Instr) (ms : List Micro), s.phase = .idle → s.initialized = false →
    ((i = .init ∧ ms = []) ∨ (i = .clear ∧ ms = clearBody s.cfg) ∨ ∃ l, i = .clearline l ∧ ms = clearlineBody s.cfg l) →
    u = s.accept i (coldStart s.cfg ++ ms ++ [Micro.respond]) →
    exec i s = .next u.finish ∧
    ∀ n, (iterate State.tick (n + 1) u).phase ≠ .faulted →
      (iterate State.tick n u).stage.rank ≤ (iterate State.tick (n + 1) u).stage.rank

/-- 10_state.md R28, 30_encoding.md R85: a request that completes without a fault answers status OK, and data 0x00
unless it is RDLATCH. Tier 2. -/
def Obligations.CompletedRequestsAnswerOk : Prop :=
  ∀ (i : Instr) (s t : State), exec i s = .next t → t.Safe →
    respStatus t.resp = 0x00#8 ∧ (i ≠ .rdlatch → t.resp = 0x0000#16)

/-- 10_state.md R29, R30, R51 and 42_controller.md R176: only SETDIR, PINMODE and a cold start write `X.DIR`: every
other request, and every public one on an initialised block, leaves it. RDLATCH, SETDIR and PINMODE leave `X.LATCH`.
Faults included. Tier 2. -/
def Obligations.WhichRequestsWriteWhichExpanderRegister : Prop :=
  ∀ (i : Instr) (s t : State), exec i s = .next t →
    ((∀ b, i ≠ .setdir b) → (∀ p l, i ≠ .pinmode p l) → (ensuresInit i = true → s.initialized = true) →
      t.x.dir = s.x.dir) ∧
    (i = .rdlatch ∨ (∃ b, i = .setdir b) ∨ (∃ p l, i = .pinmode p l) → t.x.latch = s.x.latch)

/-! ## What the LCD receives (the informative receiver, log 16) -/

/-- 41_parallel_bus.md R156: from any interface state the four cold-start nibbles, each captured once under RS = 0,
leave the controller in 4-bit mode expecting a high nibble, whatever the unwired lines show; from 4-bit mode with a high
nibble stored, the first completes one byte, which the controller executes. The controller has finished what it executed
before (70_reset_and_hazards.md R266, log 28). Tier 2. -/
def Obligations.ColdStartNibblesResynchroniseTheLcd : Prop :=
  ∀ (l : Lcd) (a b c d : Capture), l.clearing = false →
    a.rs = false ∧ a.nib = 0x3 → b.rs = false ∧ b.nib = 0x3 → c.rs = false ∧ c.nib = 0x3 → d.rs = false ∧ d.nib = 0x2 →
    (l.captureAll [a, b, c, d]).iface = .fourHi ∧
    ∀ hi, l.iface = .fourLo hi → (l.capture a).received = l.received ++ [(false, hi ++ 0x3#4)] ∧
      (l.capture a).executed = l.executed ++ [(false, hi ++ 0x3#4)]

/-- 41_parallel_bus.md R155: with the controller in 4-bit mode expecting a high nibble, the LCD lines outputs, the pins
distinct and E low, a faultless SENDBYTE makes exactly two captures, the high nibble and then the low nibble under
RS = m, so the LCD receives exactly the byte. If the controller has finished the previous instruction, it executes the
byte; while a clear-display may still run, whether it does is a draw (70_reset_and_hazards.md R266, log 28). It ends
expecting a high nibble, except after an executed function set with DL = 1 (R154). Under either read model and every
draw. Tier 2. -/
def Obligations.SendbyteDeliversExactlyTheByte : Prop :=
  ∀ (b : Byte) (m : Bool) (s : State) (d : Nat → LcdDraw) (l : Lcd),
    s.phase = .idle → transportOk 10 s.failures = true → s.cfg.wellFormed = true →
    (∀ q ∈ lcdPins s.cfg.pins, s.x.dir.getLsbD q.val = false) → s.x.latch.getLsbD s.cfg.pins.e.val = false →
    l.iface = .fourHi →
    ∃ (t : State) (c₁ c₂ : Capture) (done : Bool), exec (.sendbyte b m) s = .next t ∧
      (Lcd.observe s.cfg d s.x (newEvents s t) l).received = l.received ++ [(m, b)] ∧
      (Lcd.observe s.cfg d s.x (newEvents s t) l).captured = l.captured ++ [c₁, c₂] ∧
      c₁.rs = m ∧ c₁.nib = highNibble b ∧ c₂.rs = m ∧ c₂.nib = lowNibble b ∧
      (l.clearing = false → done = true) ∧
      (Lcd.observe s.cfg d s.x (newEvents s t) l).executed = l.executed ++ (if done then [(m, b)] else []) ∧
      (Lcd.observe s.cfg d s.x (newEvents s t) l).iface = afterByte done m (highNibble b)

/-- 42_controller.md R175, 41_parallel_bus.md R152, R156, 70_reset_and_hazards.md R271: whatever the LCD's interface
state, the expander and the draws before it, a faultless cold start under `READ_MODEL = latch` ends with the LCD in 4-bit
mode expecting a high nibble, and the last six bytes it received are the six commands, all under RS = 0. The parameters
are well-formed and no command is a function set with DL = 1 (the defaults are such). Tier 2. -/
def Obligations.ColdStartLeavesTheLcdSynchronisedAndConfigured : Prop :=
  ∀ (s : State) (d : Nat → LcdDraw) (l : Lcd),
    s.phase = .idle → s.initialized = false → transportOk 137 s.failures = true → s.cfg.wellFormed = true →
    s.cfg.readModel = .latch → (∀ b ∈ coldBytes s.cfg, highNibble b ≠ 0x3#4) →
    ∃ t before, exec .init s = .next t ∧
      (Lcd.observe s.cfg d s.x (newEvents s t) l).iface = .fourHi ∧
      (Lcd.observe s.cfg d s.x (newEvents s t) l).received =
        before ++ (coldBytes s.cfg).map (fun b => (false, b))

/-- 41_parallel_bus.md R155, 43_host_operations.md R211: on a synchronised LCD a run of SENDCMD and SENDCHAR requests
delivers exactly their bytes, each with its RS, in order. The commands 0x30 to 0x3F (function set with DL = 1), which
return the LCD to 8-bit mode, are left out here; for one of them see `SendbyteDeliversExactlyTheByte`. R155 assumes
that the controller has finished the previous instruction; no premise here says so, and 0x01 is among the bytes: that
a byte not executed after a clear-display (70_reset_and_hazards.md R266) is still received, and that the nibble half
goes on, is the model's choice (log 28). Tier 2. -/
def Obligations.ARunOfBytesIsDeliveredInOrder : Prop :=
  ∀ (bytes : List (Byte × Bool)) (s : State) (d : Nat → LcdDraw) (l : Lcd),
    s.phase = .idle → transportOk (10 * bytes.length) s.failures = true → s.cfg.wellFormed = true →
    (∀ q ∈ lcdPins s.cfg.pins, s.x.dir.getLsbD q.val = false) → s.x.latch.getLsbD s.cfg.pins.e.val = false →
    l.iface = .fourHi → (∀ p ∈ bytes, p.2 = true ∨ highNibble p.1 ≠ 0x3#4) →
    ∃ t, execAll (bytes.map (fun p => if p.2 then .sendchar p.1 else .sendcmd p.1)) s = .next t ∧
      t.phase = .idle ∧
      (Lcd.observe s.cfg d s.x (newEvents s t) l).received = l.received ++ bytes.map (fun p => (p.2, p.1))

/-- 70_reset_and_hazards.md R266: on a synchronised LCD that has finished its previous instruction, a faultless CLEAR
delivers the clear-display and the home command. The LCD executes the clear. It executes the home command too if
`T_CLEAR_EXTRA` is at least 1520 microseconds; with the default parameters it may or may not, whatever the draw (log 28).
Tier 2. -/
def Obligations.TheCommandAfterAClearIsExecutedOnlyAfterAWait : Prop :=
  ∀ (s : State) (l : Lcd),
    s.phase = .idle → s.initialized = true → transportOk 20 s.failures = true → s.cfg.wellFormed = true →
    (∀ q ∈ lcdPins s.cfg.pins, s.x.dir.getLsbD q.val = false) → s.x.latch.getLsbD s.cfg.pins.e.val = false →
    l.iface = .fourHi → l.clearing = false → s.cfg.cmdClear = 0x01 →
    ∃ t, exec .clear s = .next t ∧
      (∀ d, (Lcd.observe s.cfg d s.x (newEvents s t) l).received =
        l.received ++ [(false, 0x01), (false, cursorByte s.cfg 0 0)]) ∧
      (clearMicros ≤ s.cfg.tClearExtra * s.cfg.tUnit →
        ∀ d, (Lcd.observe s.cfg d s.x (newEvents s t) l).executed =
          l.executed ++ [(false, 0x01), (false, cursorByte s.cfg 0 0)]) ∧
      (s.cfg = defaultConfig →
        ∀ r : Bool, ∃ d, (Lcd.observe s.cfg d s.x (newEvents s t) l).executed =
          l.executed ++ (false, 0x01) :: (if r then [(false, cursorByte s.cfg 0 0)] else []))
end

