-- ==== Sys2Proof/Laws/Bits.lean ====
section
/-! SUPPORT. Bit replacement and nibble placement, bit by bit (00_scope.md R18, 30_encoding.md R88). -/

namespace Sys2Proof.Machine

/-- `setbit` bit by bit (00_scope.md R11). -/
theorem getLsbD_setbit (v : Byte) (p : Nat) (l : Bool) (i : Nat) :
    (setbit v p l).getLsbD i = if i < 8 ∧ i = p then l else v.getLsbD i := by
  by_cases hi : i < 8
  · by_cases hp : i = p
    · subst hp
      cases l <;> simp [setbit, bitByte, hi]
    · rcases Nat.lt_or_ge i p with hl | hg
      · cases l <;> simp [setbit, bitByte, hi, hp, hl]
      · have : i - p ≠ 0 := by omega
        cases l <;> simp [setbit, bitByte, hi, hp, Nat.not_lt.mpr hg, this]
  · have h1 : (setbit v p l).getLsbD i = false := BitVec.getLsbD_of_ge _ _ (by omega)
    have h2 : v.getLsbD i = false := BitVec.getLsbD_of_ge _ _ (by omega)
    simp [h1, h2, hi]

/-- The target bit of `setbit`. -/
@[simp] theorem getLsbD_setbit_self (v : Byte) (p : Fin 8) (l : Bool) : (setbit v p.val l).getLsbD p.val = l := by
  rw [getLsbD_setbit]; simp [p.isLt]

/-- The other bits of `setbit`. -/
theorem getLsbD_setbit_other (v : Byte) {p i : Nat} (l : Bool) (h : i ≠ p) :
    (setbit v p l).getLsbD i = v.getLsbD i := by
  rw [getLsbD_setbit]; simp [h]

/-- A bit position outside the byte replaces nothing. -/
theorem setbit_of_ge (v : Byte) {p : Nat} (l : Bool) (h : 8 ≤ p) : setbit v p l = v := by
  apply BitVec.eq_of_getLsbD_eq
  intro i hi
  rw [getLsbD_setbit]
  have : ¬(i < 8 ∧ i = p) := by omega
  simp [this]

/-- A bit of a nibble's set-up image: E low, the data lines from the nibble, every other bit kept. The later of two
equal positions wins. -/
theorem getLsbD_nibbleImage (p : PinMap) (v : Byte) (n : Nibble) (i : Nat) :
    (nibbleImage p v n).getLsbD i =
      if i < 8 ∧ i = p.e.val then false
      else if i < 8 ∧ i = p.db7.val then n.getLsbD 3
      else if i < 8 ∧ i = p.db6.val then n.getLsbD 2
      else if i < 8 ∧ i = p.db5.val then n.getLsbD 1
      else if i < 8 ∧ i = p.db4.val then n.getLsbD 0
      else v.getLsbD i := by
  simp only [nibbleImage, placeNibble, getLsbD_setbit]

end Sys2Proof.Machine
end

