-- ==== Sys2Proof/Laws/Decode.lean ====
section
/-! SUPPORT. The word and its fields are two views of the same bits, so the decoder's laws need only the fields. -/

namespace Sys2Proof

@[simp] theorem Fields.ofWord_toWord (f : Fields) : Fields.ofWord f.toWord = f := by
  rcases f with ⟨op, hi, lo⟩
  simp only [Fields.ofWord, Fields.toWord, Fields.mk.injEq]
  refine ⟨?_, ?_, ?_⟩ <;> apply BitVec.eq_of_getLsbD_eq <;> intro i hi' <;>
    simp only [BitVec.getLsbD_extractLsb', BitVec.getLsbD_append] <;> grind

@[simp] theorem Fields.toWord_ofWord (w : Word) : (Fields.ofWord w).toWord = w := by
  simp only [Fields.ofWord, Fields.toWord]
  apply BitVec.eq_of_getLsbD_eq
  intro i hi
  simp only [BitVec.getLsbD_extractLsb', BitVec.getLsbD_append]
  grind

/-- Decoding an encoded request is decoding its fields. -/
theorem decode_encode (i : Instr) : decode (encode i) = decodeFields (encodeFields i) := by
  rw [decode, encode, Fields.ofWord_toWord]

@[simp] theorem Line.ofBit_toBit (l : Line) : Line.ofBit l.toBit = l := by cases l <;> rfl

@[simp] theorem Line.toBit_ofBit (b : Bool) : (Line.ofBit b).toBit = b := by cases b <;> rfl

@[simp] theorem getLsbD_bitByte_zero (l : Bool) : (bitByte l).getLsbD 0 = l := by cases l <;> rfl

end Sys2Proof
end

