-- ==== Sys2Proof/Laws/Lcd.lean ====
section
/-! SUPPORT. What one capture, one wait and one event can do to the receiver of Machine/Lcd.lean, so that no later proof
unfolds `Lcd.observe`. -/

namespace Sys2Proof.Machine

/-! ## Lists of captures and of events -/

@[simp] theorem Lcd.captureAll_nil (l : Lcd) : l.captureAll [] = l := rfl

@[simp] theorem Lcd.captureAll_cons (l : Lcd) (c : Capture) (cs : List Capture) :
    l.captureAll (c :: cs) = (l.capture c).captureAll cs := rfl

theorem Lcd.captureAll_append (l : Lcd) (cs ds : List Capture) :
    l.captureAll (cs ++ ds) = (l.captureAll cs).captureAll ds := List.foldl_append

theorem Lcd.observe_nil (c : Config) (d : Nat → LcdDraw) (x : Expander) (l : Lcd) :
    Lcd.observe c d x [] l = l.captureAll (idleCaptures c.pins x (d 0)) := rfl

theorem Lcd.observe_cons (c : Config) (d : Nat → LcdDraw) (x : Expander) (e : Event) (es : List Event) (l : Lcd) :
    Lcd.observe c d x (e :: es) l = Lcd.observe c (fun n => d (n + 1)) (x.after c e) es
      (((l.captureAll (idleCaptures c.pins x (d 0))).captureAll (captures c.pins x (x.after c e) (d 0))).elapse c e) := rfl

/-! ## E driven -/

/-- The level of an output pin is its latch bit (10_state.md R32). -/
theorem pinLevel_of_output {x : Expander} {p : Fin 8} (h : x.dir.getLsbD p.val = false) :
    pinLevel x p = if x.latch.getLsbD p.val then .high else .low := by
  simp only [pinLevel, h, Bool.false_eq_true, if_false]

/-- While E is an output, nothing is captured between events (41_parallel_bus.md R152). -/
theorem idleCaptures_of_output {p : PinMap} {x : Expander} (h : x.dir.getLsbD p.e.val = false) (d : LcdDraw) :
    idleCaptures p x d = [] := by
  rw [idleCaptures, pinLevel_of_output h]
  cases x.latch.getLsbD p.e.val <;> rfl

/-- While E is an output before and after an event, the event captures exactly when E falls (41_parallel_bus.md R151). -/
theorem captures_of_output {p : PinMap} {x y : Expander} (hx : x.dir.getLsbD p.e.val = false)
    (hy : y.dir.getLsbD p.e.val = false) (d : LcdDraw) :
    captures p x y d =
      if x.latch.getLsbD p.e.val && !y.latch.getLsbD p.e.val then [edgeCapture p x y d.settle] else [] := by
  rw [captures, pinLevel_of_output hx, pinLevel_of_output hy]
  cases x.latch.getLsbD p.e.val <;> cases y.latch.getLsbD p.e.val <;> rfl

/-! ## One capture -/

/-- A capture in 8-bit mode completes a whole byte (41_parallel_bus.md R154). -/
theorem Lcd.capture_eight {l : Lcd} (h : l.iface = .eight) (c : Capture) :
    l.capture c = { ({ l with captured := l.captured ++ [c] } : Lcd).complete c.rs c.ready (c.nib ++ c.low) with
      iface := afterWhole (l.executes c.ready) c.rs c.nib } := by
  simp [Lcd.capture, h]

/-- A capture at the high half stores the nibble (41_parallel_bus.md R154). -/
theorem Lcd.capture_fourHi {l : Lcd} (h : l.iface = .fourHi) (c : Capture) :
    l.capture c = { l with captured := l.captured ++ [c], iface := .fourLo c.nib } := by
  simp [Lcd.capture, h]

/-- A capture at the low half completes the byte (41_parallel_bus.md R154). -/
theorem Lcd.capture_fourLo {l : Lcd} {hi : Nibble} (h : l.iface = .fourLo hi) (c : Capture) :
    l.capture c = { ({ l with captured := l.captured ++ [c] } : Lcd).complete c.rs c.ready (hi ++ c.nib) with
      iface := afterByte (l.executes c.ready) c.rs hi } := by
  simp [Lcd.capture, h]

@[simp] theorem Lcd.capture_captured (l : Lcd) (c : Capture) : (l.capture c).captured = l.captured ++ [c] := by
  cases h : l.iface
  · simp [Lcd.capture_eight h, Lcd.complete]
  · simp [Lcd.capture_fourHi h]
  · simp [Lcd.capture_fourLo h, Lcd.complete]

/-- A controller that has finished what it executed before executes the next byte (70_reset_and_hazards.md R266). -/
@[simp] theorem Lcd.executes_of_not_clearing {l : Lcd} (h : l.clearing = false) (r : Bool) : l.executes r = true := by
  simp [Lcd.executes, h]

/-! ## One wait -/

@[simp] theorem Lcd.elapse_iface (c : Config) (l : Lcd) (e : Event) : (l.elapse c e).iface = l.iface := by
  unfold Lcd.elapse; repeat' split
  all_goals rfl

@[simp] theorem Lcd.elapse_captured (c : Config) (l : Lcd) (e : Event) : (l.elapse c e).captured = l.captured := by
  unfold Lcd.elapse; repeat' split
  all_goals rfl

@[simp] theorem Lcd.elapse_received (c : Config) (l : Lcd) (e : Event) : (l.elapse c e).received = l.received := by
  unfold Lcd.elapse; repeat' split
  all_goals rfl

@[simp] theorem Lcd.elapse_executed (c : Config) (l : Lcd) (e : Event) : (l.elapse c e).executed = l.executed := by
  unfold Lcd.elapse; repeat' split
  all_goals rfl

/-- No event starts a clear-display; a long wait ends one (70_reset_and_hazards.md R266). -/
theorem Lcd.elapse_clearing (c : Config) (l : Lcd) (e : Event) :
    (l.elapse c e).clearing = l.clearing ∨ (l.elapse c e).clearing = false := by
  unfold Lcd.elapse; repeat' split
  all_goals simp

theorem Lcd.elapse_wait {c : Config} {n : Nat} (h : clearMicros ≤ n * c.tUnit) (l : Lcd) :
    l.elapse c (evWait n) = { l with clearing := false } := by
  simp [Lcd.elapse, evWait, h]

end Sys2Proof.Machine
end

