-- ==== Sys2Proof/Laws/State.lean ====
section
/-! SUPPORT. One lemma per field and named update of the state, each true by unfolding, so that no later proof unfolds a
record update. -/

namespace Sys2Proof.Machine

variable (s : State)

/-! ## `State.log` -/

@[simp] theorem State.log_cfg (a : Action) (b : Bool) : (s.log a b).cfg = s.cfg := rfl
@[simp] theorem State.log_initialized (a : Action) (b : Bool) : (s.log a b).initialized = s.initialized := rfl
@[simp] theorem State.log_currentLine (a : Action) (b : Bool) : (s.log a b).currentLine = s.currentLine := rfl
@[simp] theorem State.log_phase (a : Action) (b : Bool) : (s.log a b).phase = s.phase := rfl
@[simp] theorem State.log_fault (a : Action) (b : Bool) : (s.log a b).fault = s.fault := rfl
@[simp] theorem State.log_w (a : Action) (b : Bool) : (s.log a b).w = s.w := rfl
@[simp] theorem State.log_resp (a : Action) (b : Bool) : (s.log a b).resp = s.resp := rfl
@[simp] theorem State.log_position (a : Action) (b : Bool) : (s.log a b).position = s.position := rfl
@[simp] theorem State.log_x (a : Action) (b : Bool) : (s.log a b).x = s.x := rfl
@[simp] theorem State.log_trace (a : Action) (b : Bool) : (s.log a b).trace = s.trace ++ [{ action := a, failed := b }] := rfl
@[simp] theorem State.log_host (a : Action) (b : Bool) : (s.log a b).host = s.host := rfl
@[simp] theorem State.log_failures (a : Action) (b : Bool) : (s.log a b).failures = s.failures := rfl
@[simp] theorem State.log_draws (a : Action) (b : Bool) : (s.log a b).draws = s.draws := rfl

/-! ## `State.setWork` -/

@[simp] theorem State.setWork_cfg (v : Byte) : (s.setWork v).cfg = s.cfg := rfl
@[simp] theorem State.setWork_initialized (v : Byte) : (s.setWork v).initialized = s.initialized := rfl
@[simp] theorem State.setWork_currentLine (v : Byte) : (s.setWork v).currentLine = s.currentLine := rfl
@[simp] theorem State.setWork_phase (v : Byte) : (s.setWork v).phase = s.phase := rfl
@[simp] theorem State.setWork_fault (v : Byte) : (s.setWork v).fault = s.fault := rfl
@[simp] theorem State.setWork_w (v : Byte) : (s.setWork v).w = v := rfl
@[simp] theorem State.setWork_resp (v : Byte) : (s.setWork v).resp = s.resp := rfl
@[simp] theorem State.setWork_position (v : Byte) : (s.setWork v).position = s.position := rfl
@[simp] theorem State.setWork_x (v : Byte) : (s.setWork v).x = s.x := rfl
@[simp] theorem State.setWork_trace (v : Byte) : (s.setWork v).trace = s.trace := rfl
@[simp] theorem State.setWork_host (v : Byte) : (s.setWork v).host = s.host := rfl
@[simp] theorem State.setWork_failures (v : Byte) : (s.setWork v).failures = s.failures := rfl
@[simp] theorem State.setWork_draws (v : Byte) : (s.setWork v).draws = s.draws := rfl

/-! ## `State.setReg` -/

@[simp] theorem State.setReg_cfg (r : Reg) (v : Byte) : (s.setReg r v).cfg = s.cfg := rfl
@[simp] theorem State.setReg_initialized (r : Reg) (v : Byte) : (s.setReg r v).initialized = s.initialized := rfl
@[simp] theorem State.setReg_currentLine (r : Reg) (v : Byte) : (s.setReg r v).currentLine = s.currentLine := rfl
@[simp] theorem State.setReg_phase (r : Reg) (v : Byte) : (s.setReg r v).phase = s.phase := rfl
@[simp] theorem State.setReg_fault (r : Reg) (v : Byte) : (s.setReg r v).fault = s.fault := rfl
@[simp] theorem State.setReg_w (r : Reg) (v : Byte) : (s.setReg r v).w = s.w := rfl
@[simp] theorem State.setReg_resp (r : Reg) (v : Byte) : (s.setReg r v).resp = s.resp := rfl
@[simp] theorem State.setReg_position (r : Reg) (v : Byte) : (s.setReg r v).position = s.position := rfl
@[simp] theorem State.setReg_x (r : Reg) (v : Byte) : (s.setReg r v).x = s.x.set r v := rfl
@[simp] theorem State.setReg_trace (r : Reg) (v : Byte) : (s.setReg r v).trace = s.trace := rfl
@[simp] theorem State.setReg_host (r : Reg) (v : Byte) : (s.setReg r v).host = s.host := rfl
@[simp] theorem State.setReg_failures (r : Reg) (v : Byte) : (s.setReg r v).failures = s.failures := rfl
@[simp] theorem State.setReg_draws (r : Reg) (v : Byte) : (s.setReg r v).draws = s.draws := rfl

/-! ## `State.markInitialized` -/

@[simp] theorem State.markInitialized_cfg : (s.markInitialized).cfg = s.cfg := rfl
@[simp] theorem State.markInitialized_initialized : (s.markInitialized).initialized = true := rfl
@[simp] theorem State.markInitialized_currentLine : (s.markInitialized).currentLine = s.currentLine := rfl
@[simp] theorem State.markInitialized_phase : (s.markInitialized).phase = s.phase := rfl
@[simp] theorem State.markInitialized_fault : (s.markInitialized).fault = s.fault := rfl
@[simp] theorem State.markInitialized_w : (s.markInitialized).w = s.w := rfl
@[simp] theorem State.markInitialized_resp : (s.markInitialized).resp = s.resp := rfl
@[simp] theorem State.markInitialized_position : (s.markInitialized).position = s.position := rfl
@[simp] theorem State.markInitialized_x : (s.markInitialized).x = s.x := rfl
@[simp] theorem State.markInitialized_trace : (s.markInitialized).trace = s.trace := rfl
@[simp] theorem State.markInitialized_host : (s.markInitialized).host = s.host := rfl
@[simp] theorem State.markInitialized_failures : (s.markInitialized).failures = s.failures := rfl
@[simp] theorem State.markInitialized_draws : (s.markInitialized).draws = s.draws := rfl

/-! ## `State.setLine` -/

@[simp] theorem State.setLine_cfg (l : Line) : (s.setLine l).cfg = s.cfg := rfl
@[simp] theorem State.setLine_initialized (l : Line) : (s.setLine l).initialized = s.initialized := rfl
@[simp] theorem State.setLine_currentLine (l : Line) : (s.setLine l).currentLine = l := rfl
@[simp] theorem State.setLine_phase (l : Line) : (s.setLine l).phase = s.phase := rfl
@[simp] theorem State.setLine_fault (l : Line) : (s.setLine l).fault = s.fault := rfl
@[simp] theorem State.setLine_w (l : Line) : (s.setLine l).w = s.w := rfl
@[simp] theorem State.setLine_resp (l : Line) : (s.setLine l).resp = s.resp := rfl
@[simp] theorem State.setLine_position (l : Line) : (s.setLine l).position = s.position := rfl
@[simp] theorem State.setLine_x (l : Line) : (s.setLine l).x = s.x := rfl
@[simp] theorem State.setLine_trace (l : Line) : (s.setLine l).trace = s.trace := rfl
@[simp] theorem State.setLine_host (l : Line) : (s.setLine l).host = s.host := rfl
@[simp] theorem State.setLine_failures (l : Line) : (s.setLine l).failures = s.failures := rfl
@[simp] theorem State.setLine_draws (l : Line) : (s.setLine l).draws = s.draws := rfl

/-! ## `State.answer` -/

@[simp] theorem State.answer_cfg (c : Cause) (d : Byte) : (s.answer c d).cfg = s.cfg := rfl
@[simp] theorem State.answer_initialized (c : Cause) (d : Byte) : (s.answer c d).initialized = s.initialized := rfl
@[simp] theorem State.answer_currentLine (c : Cause) (d : Byte) : (s.answer c d).currentLine = s.currentLine := rfl
@[simp] theorem State.answer_phase (c : Cause) (d : Byte) : (s.answer c d).phase = s.phase := rfl
@[simp] theorem State.answer_fault (c : Cause) (d : Byte) : (s.answer c d).fault = s.fault := rfl
@[simp] theorem State.answer_w (c : Cause) (d : Byte) : (s.answer c d).w = s.w := rfl
@[simp] theorem State.answer_resp (c : Cause) (d : Byte) : (s.answer c d).resp = response c d := rfl
@[simp] theorem State.answer_position (c : Cause) (d : Byte) : (s.answer c d).position = s.position := rfl
@[simp] theorem State.answer_x (c : Cause) (d : Byte) : (s.answer c d).x = s.x := rfl
@[simp] theorem State.answer_trace (c : Cause) (d : Byte) : (s.answer c d).trace = s.trace := rfl
@[simp] theorem State.answer_host (c : Cause) (d : Byte) : (s.answer c d).host = s.host := rfl
@[simp] theorem State.answer_failures (c : Cause) (d : Byte) : (s.answer c d).failures = s.failures := rfl
@[simp] theorem State.answer_draws (c : Cause) (d : Byte) : (s.answer c d).draws = s.draws := rfl

/-! ## `State.raiseTransport` -/

@[simp] theorem State.raiseTransport_cfg (a : Action) : (s.raiseTransport a).cfg = s.cfg := rfl
@[simp] theorem State.raiseTransport_initialized (a : Action) : (s.raiseTransport a).initialized = s.initialized := rfl
@[simp] theorem State.raiseTransport_currentLine (a : Action) : (s.raiseTransport a).currentLine = s.currentLine := rfl
@[simp] theorem State.raiseTransport_phase (a : Action) : (s.raiseTransport a).phase = .faulted := rfl
@[simp] theorem State.raiseTransport_fault (a : Action) : (s.raiseTransport a).fault = a.record := rfl
@[simp] theorem State.raiseTransport_w (a : Action) : (s.raiseTransport a).w = s.w := rfl
@[simp] theorem State.raiseTransport_resp (a : Action) : (s.raiseTransport a).resp = response .transportFault 0 := rfl
@[simp] theorem State.raiseTransport_position (a : Action) : (s.raiseTransport a).position = none := rfl
@[simp] theorem State.raiseTransport_x (a : Action) : (s.raiseTransport a).x = s.x := rfl
@[simp] theorem State.raiseTransport_trace (a : Action) : (s.raiseTransport a).trace = s.trace := rfl
@[simp] theorem State.raiseTransport_host (a : Action) : (s.raiseTransport a).host = s.host := rfl
@[simp] theorem State.raiseTransport_failures (a : Action) : (s.raiseTransport a).failures = s.failures := rfl
@[simp] theorem State.raiseTransport_draws (a : Action) : (s.raiseTransport a).draws = s.draws := rfl

/-! ## `State.advance` -/

@[simp] theorem State.advance_cfg : (s.advance).cfg = s.cfg := rfl
@[simp] theorem State.advance_initialized : (s.advance).initialized = s.initialized := rfl
@[simp] theorem State.advance_currentLine : (s.advance).currentLine = s.currentLine := rfl
@[simp] theorem State.advance_phase : (s.advance).phase = s.phase := rfl
@[simp] theorem State.advance_fault : (s.advance).fault = s.fault := rfl
@[simp] theorem State.advance_w : (s.advance).w = s.w := rfl
@[simp] theorem State.advance_resp : (s.advance).resp = s.resp := rfl
@[simp] theorem State.advance_position : (s.advance).position = s.position.map Position.advance := rfl
@[simp] theorem State.advance_x : (s.advance).x = s.x := rfl
@[simp] theorem State.advance_trace : (s.advance).trace = s.trace := rfl
@[simp] theorem State.advance_host : (s.advance).host = s.host := rfl
@[simp] theorem State.advance_failures : (s.advance).failures = s.failures := rfl
@[simp] theorem State.advance_draws : (s.advance).draws = s.draws := rfl

/-! ## `State.accept` -/

@[simp] theorem State.accept_cfg (i : Instr) (ms : List Micro) : (s.accept i ms).cfg = s.cfg := rfl
@[simp] theorem State.accept_initialized (i : Instr) (ms : List Micro) : (s.accept i ms).initialized = s.initialized := rfl
@[simp] theorem State.accept_currentLine (i : Instr) (ms : List Micro) : (s.accept i ms).currentLine = s.currentLine := rfl
@[simp] theorem State.accept_phase (i : Instr) (ms : List Micro) : (s.accept i ms).phase = .busy := rfl
@[simp] theorem State.accept_fault (i : Instr) (ms : List Micro) : (s.accept i ms).fault = s.fault := rfl
@[simp] theorem State.accept_w (i : Instr) (ms : List Micro) : (s.accept i ms).w = s.w := rfl
@[simp] theorem State.accept_resp (i : Instr) (ms : List Micro) : (s.accept i ms).resp = s.resp := rfl
@[simp] theorem State.accept_position (i : Instr) (ms : List Micro) : (s.accept i ms).position = some { request := i, expansion := ms, next := 0 } := rfl
@[simp] theorem State.accept_x (i : Instr) (ms : List Micro) : (s.accept i ms).x = s.x := rfl
@[simp] theorem State.accept_trace (i : Instr) (ms : List Micro) : (s.accept i ms).trace = s.trace := rfl
@[simp] theorem State.accept_host (i : Instr) (ms : List Micro) : (s.accept i ms).host = s.host := rfl
@[simp] theorem State.accept_failures (i : Instr) (ms : List Micro) : (s.accept i ms).failures = s.failures := rfl
@[simp] theorem State.accept_draws (i : Instr) (ms : List Micro) : (s.accept i ms).draws = s.draws := rfl

/-! ## `State.blockReset` -/

@[simp] theorem State.blockReset_cfg : (s.blockReset).cfg = s.cfg := rfl
@[simp] theorem State.blockReset_initialized : (s.blockReset).initialized = false := rfl
@[simp] theorem State.blockReset_currentLine : (s.blockReset).currentLine = .top := rfl
@[simp] theorem State.blockReset_phase : (s.blockReset).phase = .idle := rfl
@[simp] theorem State.blockReset_fault : (s.blockReset).fault = none := rfl
@[simp] theorem State.blockReset_w : (s.blockReset).w = 0 := rfl
@[simp] theorem State.blockReset_resp : (s.blockReset).resp = 0 := rfl
@[simp] theorem State.blockReset_position : (s.blockReset).position = none := rfl
@[simp] theorem State.blockReset_x : (s.blockReset).x = s.x := rfl
@[simp] theorem State.blockReset_trace : (s.blockReset).trace = s.trace := rfl
@[simp] theorem State.blockReset_host : (s.blockReset).host = s.host := rfl
@[simp] theorem State.blockReset_failures : (s.blockReset).failures = s.failures := rfl
@[simp] theorem State.blockReset_draws : (s.blockReset).draws = s.draws := rfl

/-! ## `State.place` -/

@[simp] theorem State.place_cfg (v : Word) : (s.place v).cfg = s.cfg := rfl
@[simp] theorem State.place_initialized (v : Word) : (s.place v).initialized = s.initialized := rfl
@[simp] theorem State.place_currentLine (v : Word) : (s.place v).currentLine = s.currentLine := rfl
@[simp] theorem State.place_phase (v : Word) : (s.place v).phase = s.phase := rfl
@[simp] theorem State.place_fault (v : Word) : (s.place v).fault = s.fault := rfl
@[simp] theorem State.place_w (v : Word) : (s.place v).w = s.w := rfl
@[simp] theorem State.place_resp (v : Word) : (s.place v).resp = s.resp := rfl
@[simp] theorem State.place_position (v : Word) : (s.place v).position = s.position := rfl
@[simp] theorem State.place_x (v : Word) : (s.place v).x = s.x := rfl
@[simp] theorem State.place_trace (v : Word) : (s.place v).trace = s.trace := rfl
@[simp] theorem State.place_host (v : Word) : (s.place v).host = .request v :: s.host := rfl
@[simp] theorem State.place_failures (v : Word) : (s.place v).failures = s.failures := rfl
@[simp] theorem State.place_draws (v : Word) : (s.place v).draws = s.draws := rfl

/-! ## `State.forgetW` -/

@[simp] theorem State.forgetW_cfg : (s.forgetW).cfg = s.cfg := rfl
@[simp] theorem State.forgetW_initialized : (s.forgetW).initialized = s.initialized := rfl
@[simp] theorem State.forgetW_currentLine : (s.forgetW).currentLine = s.currentLine := rfl
@[simp] theorem State.forgetW_phase : (s.forgetW).phase = s.phase := rfl
@[simp] theorem State.forgetW_fault : (s.forgetW).fault = s.fault := rfl
@[simp] theorem State.forgetW_w : (s.forgetW).w = 0 := rfl
@[simp] theorem State.forgetW_resp : (s.forgetW).resp = s.resp := rfl
@[simp] theorem State.forgetW_position : (s.forgetW).position = s.position := rfl
@[simp] theorem State.forgetW_x : (s.forgetW).x = s.x := rfl
@[simp] theorem State.forgetW_trace : (s.forgetW).trace = s.trace := rfl
@[simp] theorem State.forgetW_host : (s.forgetW).host = s.host := rfl
@[simp] theorem State.forgetW_failures : (s.forgetW).failures = s.failures := rfl
@[simp] theorem State.forgetW_draws : (s.forgetW).draws = s.draws := rfl

/-! ## The expander -/

@[simp] theorem Expander.get_dir (x : Expander) : x.get .dir = x.dir := rfl
@[simp] theorem Expander.get_latch (x : Expander) : x.get .latch = x.latch := rfl
@[simp] theorem Expander.set_dir (x : Expander) (v : Byte) : x.set .dir v = { x with dir := v } := rfl
@[simp] theorem Expander.set_latch (x : Expander) (v : Byte) : x.set .latch v = { x with latch := v } := rfl

/-! ## The power-on state -/

@[simp] theorem State.powerOn_cfg (c : Config) : (State.powerOn c).cfg = c := rfl
@[simp] theorem State.powerOn_initialized (c : Config) : (State.powerOn c).initialized = false := rfl
@[simp] theorem State.powerOn_currentLine (c : Config) : (State.powerOn c).currentLine = .top := rfl
@[simp] theorem State.powerOn_phase (c : Config) : (State.powerOn c).phase = .idle := rfl
@[simp] theorem State.powerOn_fault (c : Config) : (State.powerOn c).fault = none := rfl
@[simp] theorem State.powerOn_w (c : Config) : (State.powerOn c).w = 0 := rfl
@[simp] theorem State.powerOn_resp (c : Config) : (State.powerOn c).resp = 0 := rfl
@[simp] theorem State.powerOn_position (c : Config) : (State.powerOn c).position = none := rfl
@[simp] theorem State.powerOn_x (c : Config) : (State.powerOn c).x = powerOnExpander c := rfl
@[simp] theorem State.powerOn_trace (c : Config) : (State.powerOn c).trace = [] := rfl
@[simp] theorem State.powerOn_host (c : Config) : (State.powerOn c).host = [] := rfl
@[simp] theorem State.powerOn_failures (c : Config) : (State.powerOn c).failures = Config.transportDraws := rfl
@[simp] theorem State.powerOn_draws (c : Config) : (State.powerOn c).draws = 0 := rfl

end Sys2Proof.Machine
end

