-- ==== Sys2Proof/Laws/Ops.lean ====
section
/-! SUPPORT. One lemma per shared operation that says once what it can do: the transport's draw, the transport
primitives, running a list of statements, and running a request. -/

namespace Sys2Proof.Machine

/-! ## The transport's draws -/

@[simp] theorem transportOk_zero (fs : List Nat) : transportOk 0 fs = true := by
  cases fs <;> simp [transportOk]

theorem transportOk_succ (n : Nat) (fs : List Nat) :
    transportOk (n + 1) fs = (!nextFails fs && transportOk n (consumeDraw fs)) := by
  rcases fs with _ | ⟨_ | k, ks⟩ <;> simp [transportOk, nextFails, consumeDraw]

theorem transportOk_mono {m n : Nat} (h : m ≤ n) {fs : List Nat} (ok : transportOk n fs = true) :
    transportOk m fs = true := by
  rcases fs with _ | ⟨k, ks⟩
  · rfl
  · simp only [transportOk, decide_eq_true_eq] at *; omega

theorem transportOk_consume (m n : Nat) (fs : List Nat) (ok : transportOk (m + n) fs = true) :
    transportOk n (consumeDraws m fs) = true := by
  induction m generalizing fs with
  | zero => simpa [consumeDraws] using ok
  | succ m ih =>
    have h : transportOk ((m + n) + 1) fs = true := by rw [← ok]; congr 1; omega
    rw [transportOk_succ] at h
    exact ih _ (by simp only [Bool.and_eq_true] at h; exact h.2)

theorem consumeDraws_add (m n : Nat) (fs : List Nat) :
    consumeDraws n (consumeDraws m fs) = consumeDraws (m + n) fs := by
  induction m generalizing fs with
  | zero => simp [consumeDraws]
  | succ m ih =>
    have e : m + 1 + n = (m + n) + 1 := by omega
    rw [e]; exact ih _

theorem nextFails_of_transportOk {n : Nat} {fs : List Nat} (h : transportOk (n + 1) fs = true) :
    nextFails fs = false := by
  rw [transportOk_succ] at h
  cases hn : nextFails fs <;> simp_all

/-- The next transport primitive fails exactly when the transport does not answer one. -/
theorem nextFails_eq (fs : List Nat) : nextFails fs = !transportOk 1 fs := by
  rcases fs with _ | ⟨_ | k, ks⟩ <;> rfl

/-- The second transport primitive fails when the transport answers one but not two. -/
theorem nextFails_consumeDraw_of_one {fs : List Nat} (h1 : transportOk 1 fs = true) (h2 : transportOk 2 fs = false) :
    nextFails (consumeDraw fs) = true := by
  rcases fs with _ | ⟨_ | _ | k, ks⟩ <;> simp_all [transportOk, nextFails, consumeDraw]

/-! ## One transport primitive -/

/-- A transport primitive that does not fail appends its event and takes its effect. -/
theorem transport_ok {s : State} (h : nextFails s.failures = false) (a : Action) (f : State → State) :
    s.transport a f = f (({ s with failures := consumeDraw s.failures } : State).log a false) := by
  simp [State.transport, h]

/-- A transport primitive that fails appends its event marked and raises the fault; nothing else happens. -/
theorem transport_fail {s : State} (h : nextFails s.failures = true) (a : Action) (f : State → State) :
    s.transport a f =
      (({ s with failures := consumeDraw s.failures } : State).log a true).raiseTransport a := by
  simp [State.transport, h]

/-- Everything a transport primitive can do. -/
theorem transport_cases (s : State) (a : Action) (f : State → State) :
    (nextFails s.failures = false ∧
      s.transport a f = f (({ s with failures := consumeDraw s.failures } : State).log a false)) ∨
    (nextFails s.failures = true ∧
      s.transport a f =
        (({ s with failures := consumeDraw s.failures } : State).log a true).raiseTransport a) := by
  cases h : nextFails s.failures
  · exact .inl ⟨rfl, transport_ok h a f⟩
  · exact .inr ⟨rfl, transport_fail h a f⟩

/-! ## Reads -/

@[simp] theorem latchRead_latch {c : Config} (h : c.readModel = .latch) (x : Expander) (n : Nat) :
    latchRead c x n = x.latch := by
  simp [latchRead, h]

@[simp] theorem readValue_dir (s : State) : s.readValue .dir = s.x.dir := rfl

@[simp] theorem readValue_latch (s : State) : s.readValue .latch = latchRead s.cfg s.x s.draws := rfl

/-- The draws counter after a latch read. -/
def drawsAfter (c : Config) (n : Nat) : Nat :=
  match c.readModel with
  | .latch => n
  | .port  => n + 1

theorem takeDraw_dir (s : State) : s.takeDraw .dir = s := rfl

theorem takeDraw_latch (s : State) : s.takeDraw .latch = { s with draws := drawsAfter s.cfg s.draws } := by
  unfold State.takeDraw drawsAfter
  cases s.cfg.readModel <;> simp

/-! ## Running statements -/

@[simp] theorem run_nil (s : State) : s.run [] = s := rfl

@[simp] theorem run_cons (s : State) (m : Micro) (ms : List Micro) : s.run (m :: ms) = (s.perform m).run ms := rfl

theorem run_append (s : State) (ms ns : List Micro) : s.run (ms ++ ns) = (s.run ms).run ns := by
  simp [State.run, List.foldl_append]

theorem perform_busy {s : State} (h : s.phase = .busy) (m : Micro) : s.perform m = s.advance.doMicro m := by
  simp [State.perform, h]

theorem perform_not_busy {s : State} (h : s.phase ≠ .busy) (m : Micro) : s.perform m = s := by
  unfold State.perform; cases hp : s.phase <;> simp_all

/-- After a fault no later statement executes (00_scope.md R16). -/
theorem run_not_busy {s : State} (h : s.phase ≠ .busy) (ms : List Micro) : s.run ms = s := by
  induction ms with
  | nil => rfl
  | cons m ms ih => rw [run_cons, perform_not_busy h, ih]

theorem complete_busy {s : State} (h : s.phase = .busy) :
    s.complete = { s with phase := .idle, position := none } := by
  simp [State.complete, h]

theorem complete_not_busy {s : State} (h : s.phase ≠ .busy) : s.complete = s := by
  unfold State.complete; cases hp : s.phase <;> simp_all

/-! ## Running a request -/

@[simp] theorem remaining_accept (s : State) (i : Instr) (ms : List Micro) : (s.accept i ms).remaining = ms := rfl

theorem finish_accept (s : State) (i : Instr) (ms : List Micro) :
    (s.accept i ms).finish = ((s.accept i ms).run ms).complete := rfl

theorem offer_idle {s : State} (h : s.phase = .idle) (i : Instr) (ms : List Micro) :
    offer i ms s = .next ((s.accept i ms).run ms).complete := by
  simp [offer, h, finish_accept]

theorem offer_faulted {s : State} (h : s.phase = .faulted) (i : Instr) (ms : List Micro) :
    offer i ms s = .fault .faulted := by
  simp [offer, h]

theorem offer_busy {s : State} (h : s.phase = .busy) (i : Instr) (ms : List Micro) :
    offer i ms s = .fault .busy := by
  simp [offer, h]

/-- Everything offering a request can do. -/
theorem offer_next {s t : State} {i : Instr} {ms : List Micro} (h : offer i ms s = .next t) :
    s.phase = .idle ∧ t = ((s.accept i ms).run ms).complete := by
  cases hp : s.phase
  · rw [offer_idle hp] at h; exact ⟨rfl, by injection h with h; exact h.symm⟩
  · rw [offer_busy hp] at h; cases h
  · rw [offer_faulted hp] at h; cases h

/-- The expansion of a request on a state, with its answer (10_state.md R27). -/
def expansionOf (s : State) : Instr → List Micro
  | .setdir b      => [.writeBuf .dir b] ++ [.respond]
  | .pinmode p l   => dirBit p l ++ [.respond]
  | .wrpin p l     => latchBit p l ++ [.respond]
  | .rdlatch       => [.read .latch, .respondW]
  | .wrlatch b     => [.writeByte .latch b] ++ [.respond]
  | .nibble n      => nibbleBody s.cfg n ++ [.respond]
  | .nibinit n     => nibinitBody s.cfg n ++ [.respond]
  | .sendbyte b m  => sendByteBody s.cfg b m ++ [.respond]
  | .sendcmd b     => sendByteBody s.cfg b false ++ [.respond]
  | .sendchar b    => sendByteBody s.cfg b true ++ [.respond]
  | .init          => ensureInitialized s ++ [.respond]
  | .setcursor r c => sendByteBody s.cfg (cursorByte s.cfg r c) false ++ [.respond]
  | .linesel l     => lineselBody s.cfg l ++ [.respond]
  | .lineselCur    => lineselBody s.cfg s.currentLine ++ [.respond]
  | .clear         => ensureInitialized s ++ clearBody s.cfg ++ [.respond]
  | .clearline l   => ensureInitialized s ++ clearlineBody s.cfg l ++ [.respond]

/-- Every request is its expansion, offered (10_state.md R27). -/
theorem exec_eq_offer (i : Instr) (s : State) : exec i s = offer i (expansionOf s i) s := by
  cases i <;> rfl

/-- Everything a request can do: it is accepted while IDLE and its expansion runs to completion. -/
theorem exec_next {i : Instr} {s t : State} (h : exec i s = .next t) :
    s.phase = .idle ∧ t = ((s.accept i (expansionOf s i)).run (expansionOf s i)).complete := by
  rw [exec_eq_offer] at h; exact offer_next h

theorem exec_idle {s : State} (h : s.phase = .idle) (i : Instr) :
    exec i s = .next ((s.accept i (expansionOf s i)).run (expansionOf s i)).complete := by
  rw [exec_eq_offer, offer_idle h]

/-! ## The step position and the sum of the waits -/

/-- Moving past one statement moves the primitive index by one if it is a primitive, and else leaves it (10_state.md
R27). -/
theorem Position.index_advance {p : Position} {m : Micro} (h : p.expansion[p.next]? = some m) :
    p.advance.index = if m.isPrimitive then p.index + 1 else p.index := by
  simp only [Position.index, Position.advance, List.take_add_one, h, List.countP_append]
  cases hm : m.isPrimitive <;> simp [hm]

theorem waitUnits_append (es fs : List Event) : waitUnits (es ++ fs) = waitUnits es + waitUnits fs := by
  induction es with
  | nil => simp [waitUnits]
  | cons e es ih => rcases e with ⟨a | a | a | a, f⟩ <;> simp [waitUnits, ih, Nat.add_assoc]

/-! ## Steps -/

/-- Everything a step can do: a block reset, a fault while FAULTED, the rest of a request, waiting for a word, an
illegal word answered, or a request executed. -/
theorem step_cases (s : State) :
    (∃ rest, s.host = .blockReset :: rest ∧ step s = .next ({ s with host := rest } : State).blockReset) ∨
    (s.phase = .faulted ∧ step s = .fault .faulted) ∨
    (s.phase = .busy ∧ step s = .next s.finish) ∨
    (s.phase = .idle ∧ s.host = [] ∧ step s = .next s) ∨
    (∃ w rest r, s.phase = .idle ∧ s.host = .request w :: rest ∧ decode w = .error r ∧
      step s = .next ({ s with host := rest } : State).rejectRequest) ∨
    (∃ w rest i, s.phase = .idle ∧ s.host = .request w :: rest ∧ decode w = .ok i ∧
      step s = exec i { s with host := rest }) := by
  rcases hh : s.host with _ | ⟨_ | _, rest⟩
  · cases hp : s.phase <;> simp [step, hostStep, takeRequest, hh, hp]
  · rename_i w
    cases hp : s.phase
    · cases hd : decode w <;> simp [step, hostStep, takeRequest, runWord, hh, hp, hd]
    · simp [step, hostStep, takeRequest, hh, hp]
    · simp [step, hostStep, takeRequest, hh, hp]
  · simp [step, hostStep, hh]

end Sys2Proof.Machine
end

