-- ==== Sys2Proof/Laws/PerInstr.lean ====
section
/-! SUPPORT. A law of every request as syntax: its encoding never has opcode 0 and never sets a reserved bit of its
format (30_encoding.md R81, R83, R84). One lemma per constructor. -/

namespace Sys2Proof.Laws.ReservedZero

open Sys2Proof Sys2Proof.Machine

/-- The encoding's opcode is not 0 and its reserved bits are 0. -/
def Statement (i : Instr) : Prop :=
  (encodeFields i).op ≠ 0#4 ∧ encode i &&& reservedMask (encodeFields i).op = 0#16

/-- A word is 0 under a mask when the middle field and the low byte are 0 under the mask's parts. -/
theorem toWord_and_eq_zero (op hi mhi : Nibble) (lo mlo : Byte) (h1 : hi &&& mhi = 0#4) (h2 : lo &&& mlo = 0#8) :
    Fields.toWord { op := op, hi := hi, lo := lo } &&& (0#4 ++ mhi ++ mlo) = 0#16 := by
  apply BitVec.eq_of_getLsbD_eq
  intro i hi'
  have a := congrArg (fun v => v.getLsbD (i - 8)) h1
  have b := congrArg (fun v => v.getLsbD i) h2
  simp only [BitVec.getLsbD_and, BitVec.getLsbD_zero, Fields.toWord, BitVec.getLsbD_append] at *
  grind

theorem low_nibble (n : Nibble) : (0#4 ++ n) &&& 0xF0#8 = 0#8 := by
  revert n; decide

theorem setdir (b : Byte) : Statement (.setdir b) := by
  exact ⟨by simp [encodeFields], toWord_and_eq_zero _ _ 0xF#4 _ 0x00#8 rfl BitVec.and_zero⟩

theorem pinmode (p : Nat) (l : Bool) : Statement (.pinmode p l) := by
  exact ⟨by simp [encodeFields], toWord_and_eq_zero _ _ 0x0#4 _ 0xFE#8 (BitVec.and_zero) (by cases l <;> rfl)⟩

theorem wrpin (p : Nat) (l : Bool) : Statement (.wrpin p l) := by
  exact ⟨by simp [encodeFields], toWord_and_eq_zero _ _ 0x0#4 _ 0xFE#8 (BitVec.and_zero) (by cases l <;> rfl)⟩

theorem rdlatch : Statement (.rdlatch) := by
  exact ⟨by decide, by decide⟩

theorem wrlatch (b : Byte) : Statement (.wrlatch b) := by
  exact ⟨by simp [encodeFields], toWord_and_eq_zero _ _ 0xF#4 _ 0x00#8 rfl BitVec.and_zero⟩

theorem nibble (n : Nibble) : Statement (.nibble n) := by
  exact ⟨by simp [encodeFields], toWord_and_eq_zero _ _ 0xF#4 _ 0xF0#8 (rfl) (low_nibble n)⟩

theorem nibinit (n : Nibble) : Statement (.nibinit n) := by
  exact ⟨by simp [encodeFields], toWord_and_eq_zero _ _ 0xF#4 _ 0xF0#8 (rfl) (low_nibble n)⟩

theorem sendbyte (b : Byte) (m : Bool) : Statement (.sendbyte b m) := by
  exact ⟨by simp [encodeFields], toWord_and_eq_zero _ _ 0xE#4 _ 0x00#8 (by cases m <;> rfl) (BitVec.and_zero)⟩

theorem sendcmd (b : Byte) : Statement (.sendcmd b) := by
  exact ⟨by simp [encodeFields], toWord_and_eq_zero _ _ 0xF#4 _ 0x00#8 rfl BitVec.and_zero⟩

theorem sendchar (b : Byte) : Statement (.sendchar b) := by
  exact ⟨by simp [encodeFields], toWord_and_eq_zero _ _ 0xF#4 _ 0x00#8 rfl BitVec.and_zero⟩

theorem init : Statement (.init) := by
  exact ⟨by decide, by decide⟩

theorem setcursor (r : Nat) (c : Int) : Statement (.setcursor r c) := by
  exact ⟨by simp [encodeFields], toWord_and_eq_zero _ _ 0x0#4 _ 0x00#8 BitVec.and_zero BitVec.and_zero⟩

theorem linesel (l : Line) : Statement (.linesel l) := by
  cases l <;> exact ⟨by decide, by decide⟩

theorem lineselCur : Statement (.lineselCur) := by
  exact ⟨by decide, by decide⟩

theorem clear : Statement (.clear) := by
  exact ⟨by decide, by decide⟩

theorem clearline (l : Line) : Statement (.clearline l) := by
  cases l <;> exact ⟨by decide, by decide⟩

end Sys2Proof.Laws.ReservedZero
end

