-- ==== Sys2Proof/Laws/Script.lean ====
section
/-! SUPPORT. The link between a request's expansion and its script: while the transport answers, running the statements
appends the script's events and leaves the script's expander, whatever the working image does. -/

namespace Sys2Proof.Machine

/-- The transport primitives of one act. -/
def Act.transports : Act → Nat
  | .dirAll _     => 1
  | .latchAll _   => 1
  | .dirPin p _   => if p > 7 then 0 else 2
  | .latchPin p _ => if p > 7 then 0 else 2
  | .nib _        => 4
  | .pause _      => 0

/-- The transport primitives of a script. -/
def scriptTransports : List Act → Nat
  | []      => 0
  | a :: as => a.transports + scriptTransports as

/-- The latch reads of a script. -/
def scriptReads : List Act → Nat
  | []      => 0
  | a :: as => a.reads + scriptReads as

@[simp] theorem scriptTransports_append (as bs : List Act) :
    scriptTransports (as ++ bs) = scriptTransports as + scriptTransports bs := by
  induction as with
  | nil => simp [scriptTransports]
  | cons a as ih => simp only [List.cons_append, scriptTransports, ih]; omega

@[simp] theorem scriptReads_append (as bs : List Act) : scriptReads (as ++ bs) = scriptReads as + scriptReads bs := by
  induction as with
  | nil => simp [scriptReads]
  | cons a as ih => simp only [List.cons_append, scriptReads, ih]; omega

/-- The counter after `n` latch reads. -/
def drawsPlus (c : Config) (d n : Nat) : Nat :=
  match c.readModel with
  | .latch => d
  | .port  => d + n

theorem drawsPlus_zero (c : Config) (d : Nat) : drawsPlus c d 0 = d := by
  unfold drawsPlus; cases c.readModel <;> rfl

theorem drawsPlus_add (c : Config) (d m n : Nat) : drawsPlus c (drawsPlus c d m) n = drawsPlus c d (m + n) := by
  unfold drawsPlus; cases c.readModel
  · rfl
  · show d + m + n = d + (m + n); omega

theorem drawsAfter_eq (c : Config) (d : Nat) : drawsAfter c d = drawsPlus c d 1 := by
  unfold drawsAfter drawsPlus; cases c.readModel <;> rfl

/-- A latch read does not see whether the counter moved when the read model ignores it. -/
theorem latchRead_drawsPlus (c : Config) (x : Expander) (d n : Nat) :
    latchRead c x (drawsPlus c d n) = latchRead c x (d + n) := by
  unfold latchRead drawsPlus; cases c.readModel <;> rfl

theorem latchRead_draws_congr {c : Config} {d e : Nat} (h : c.readModel = .latch ∨ d = e) (x : Expander) :
    latchRead c x d = latchRead c x e := by
  rcases h with h | h
  · simp [h]
  · rw [h]

theorem act_draws_congr {c : Config} {d e : Nat} (h : c.readModel = .latch ∨ d = e) (x : Expander) (a : Act) :
    a.events c x d = a.events c x e ∧ a.after c x d = a.after c x e := by
  cases a <;> simp [Act.events, Act.after, latchRead_draws_congr h]

theorem play_draws_congr {c : Config} (as : List Act) {d e : Nat} (h : c.readModel = .latch ∨ d = e) (x : Expander) :
    playEvents c x d as = playEvents c x e as ∧ playEnd c x d as = playEnd c x e as := by
  induction as generalizing x d e with
  | nil => exact ⟨rfl, rfl⟩
  | cons a as ih =>
    obtain ⟨h1, h2⟩ := act_draws_congr h x a
    have h3 := ih (d := d + a.reads) (e := e + a.reads) (h.imp id (by rintro rfl; rfl)) (a.after c x e)
    simp only [playEvents, playEnd, h1, h2, h3, and_self]

theorem draws_congr (c : Config) (d n : Nat) : c.readModel = .latch ∨ drawsPlus c d n = d + n := by
  unfold drawsPlus; cases c.readModel <;> simp

theorem playEvents_append (c : Config) (as bs : List Act) (x : Expander) (d : Nat) :
    playEvents c x d (as ++ bs) =
      playEvents c x d as ++ playEvents c (playEnd c x d as) (d + scriptReads as) bs := by
  induction as generalizing x d with
  | nil => simp [playEvents, playEnd, scriptReads]
  | cons a as ih =>
    simp only [List.cons_append, playEvents, playEnd, scriptReads, ih, List.append_assoc]
    rw [Nat.add_assoc]

theorem playEnd_append (c : Config) (as bs : List Act) (x : Expander) (d : Nat) :
    playEnd c x d (as ++ bs) = playEnd c (playEnd c x d as) (d + scriptReads as) bs := by
  induction as generalizing x d with
  | nil => simp [playEnd, scriptReads]
  | cons a as ih => simp only [List.cons_append, playEnd, scriptReads, ih, Nat.add_assoc]

/-- `t` is `s` after the script `as`, still BUSY: everything but the working image and the step position is told. -/
structure Played (s t : State) (as : List Act) : Prop where
  phase       : t.phase = .busy
  cfg         : t.cfg = s.cfg
  initialized : t.initialized = s.initialized
  currentLine : t.currentLine = s.currentLine
  fault       : t.fault = s.fault
  resp        : t.resp = s.resp
  host        : t.host = s.host
  x           : t.x = playEnd s.cfg s.x s.draws as
  trace       : t.trace = s.trace ++ playEvents s.cfg s.x s.draws as
  failures    : t.failures = consumeDraws (scriptTransports as) s.failures
  draws       : t.draws = drawsPlus s.cfg s.draws (scriptReads as)

/-- The statements `ms` perform the script `as` whenever the transport answers. -/
def Performs (c : Config) (ms : List Micro) (as : List Act) : Prop :=
  ∀ s : State, s.cfg = c → s.phase = .busy → transportOk (scriptTransports as) s.failures = true →
    Played s (s.run ms) as

theorem Performs.append {c : Config} {ms ns : List Micro} {as bs : List Act} (h1 : Performs c ms as)
    (h2 : Performs c ns bs) : Performs c (ms ++ ns) (as ++ bs) := by
  intro s hc hp ok
  rw [scriptTransports_append] at ok
  have p := h1 s hc hp (transportOk_mono (Nat.le_add_right _ _) ok)
  have q := h2 (s.run ms) (p.cfg.trans hc) p.phase (by rw [p.failures]; exact transportOk_consume _ _ _ ok)
  have hd := play_draws_congr bs (draws_congr s.cfg s.draws (scriptReads as)) (playEnd s.cfg s.x s.draws as)
  rw [run_append]
  exact
    { phase := q.phase, cfg := q.cfg.trans p.cfg, initialized := q.initialized.trans p.initialized,
      currentLine := q.currentLine.trans p.currentLine, fault := q.fault.trans p.fault, resp := q.resp.trans p.resp,
      host := q.host.trans p.host,
      x := by rw [q.x, p.cfg, p.x, p.draws, hd.2, playEnd_append],
      trace := by rw [q.trace, p.cfg, p.trace, p.x, p.draws, hd.1, playEvents_append, List.append_assoc],
      failures := by rw [q.failures, p.failures, consumeDraws_add, scriptTransports_append],
      draws := by rw [q.draws, p.cfg, p.draws, drawsPlus_add, scriptReads_append] }

theorem Performs.nil (c : Config) : Performs c [] [] := by
  intro s _ hp _
  exact ⟨hp, rfl, rfl, rfl, rfl, rfl, rfl, rfl, by simp [playEvents], rfl, (drawsPlus_zero _ _).symm⟩

/-- A label performs nothing. -/
theorem Performs.enter (c : Config) (st : Stage) : Performs c [.enter st] [] := by
  intro s _ hp _
  simp only [run_cons, run_nil, perform_busy hp]
  exact ⟨hp, rfl, rfl, rfl, rfl, rfl, rfl, rfl, by simp [playEvents, State.doMicro], rfl, (drawsPlus_zero _ _).symm⟩

/-- `Wait(n)` (00_scope.md R14). -/
theorem Performs.wait (c : Config) (n : Nat) : Performs c [.wait n] [.pause n] := by
  intro s _ hp _
  simp only [run_cons, run_nil, perform_busy hp]
  exact ⟨hp, rfl, rfl, rfl, rfl, rfl, rfl, rfl, rfl, rfl, (drawsPlus_zero _ _).symm⟩

/-- `MemWriteBuf([REG_DIR, b])` (20_memory.md R56). -/
theorem Performs.writeBuf (c : Config) (b : Byte) : Performs c [.writeBuf .dir b] [.dirAll b] := by
  intro s _ hp ok
  have h := nextFails_of_transportOk (n := 0) ok
  simp only [run_cons, run_nil, perform_busy hp, State.doMicro, State.memWriteBuf]
  rw [transport_ok (by exact h)]
  exact ⟨hp, rfl, rfl, rfl, rfl, rfl, rfl, rfl, rfl, rfl, (drawsPlus_zero _ _).symm⟩

/-- `MemWrite(REG_LATCH, 1, b)` (20_memory.md R55). -/
theorem Performs.writeByte (c : Config) (b : Byte) : Performs c [.writeByte .latch b] [.latchAll b] := by
  intro s _ hp ok
  have h := nextFails_of_transportOk (n := 0) ok
  simp only [run_cons, run_nil, perform_busy hp, State.doMicro, State.memWrite]
  rw [transport_ok (by exact h)]
  exact ⟨hp, rfl, rfl, rfl, rfl, rfl, rfl, rfl, rfl, rfl, (drawsPlus_zero _ _).symm⟩

/-- `W <- MemRead(REG_DIR, 1)` that does not fail. -/
theorem perform_readDir {s : State} (hp : s.phase = .busy) (h : nextFails s.failures = false) :
    s.perform (.read .dir) =
      { s with w := s.x.dir, position := s.position.map Position.advance, failures := consumeDraw s.failures,
               trace := s.trace ++ [evRd s.cfg.regDir s.x.dir] } := by
  rw [perform_busy hp, State.doMicro, State.memRead, takeDraw_dir, transport_ok (by exact h)]; rfl

/-- `W <- MemRead(REG_LATCH, 1)` that does not fail. -/
theorem perform_readLatch {s : State} (hp : s.phase = .busy) (h : nextFails s.failures = false) :
    s.perform (.read .latch) =
      { s with w := latchRead s.cfg s.x s.draws, position := s.position.map Position.advance,
               failures := consumeDraw s.failures, draws := drawsPlus s.cfg s.draws 1,
               trace := s.trace ++ [evRd s.cfg.regLatch (latchRead s.cfg s.x s.draws)] } := by
  rw [perform_busy hp, State.doMicro, State.memRead, takeDraw_latch, transport_ok (by exact h), drawsAfter_eq]; rfl

/-- `W <- setbit(W, p, l)`. -/
theorem perform_setW {s : State} (hp : s.phase = .busy) (p : Nat) (l : Bool) :
    s.perform (.setW p l) =
      { s with w := setbit s.w p l, position := s.position.map Position.advance } := by
  rw [perform_busy hp]; rfl

/-- `Wait(n)`. -/
theorem perform_wait {s : State} (hp : s.phase = .busy) (n : Nat) :
    s.perform (.wait n) =
      { s with position := s.position.map Position.advance, trace := s.trace ++ [evWait n] } := by
  rw [perform_busy hp]; rfl

/-- `MemWrite(REG_DIR, 1, W)` that does not fail. -/
theorem perform_writeW_dir {s : State} (hp : s.phase = .busy) (h : nextFails s.failures = false) :
    s.perform (.writeW .dir) =
      { s with x := { s.x with dir := s.w }, position := s.position.map Position.advance,
               failures := consumeDraw s.failures, trace := s.trace ++ [evWr s.cfg.regDir s.w] } := by
  rw [perform_busy hp, State.doMicro, State.memWrite, transport_ok (by exact h)]; rfl

/-- `MemWrite(REG_LATCH, 1, W)` that does not fail. -/
theorem perform_writeW_latch {s : State} (hp : s.phase = .busy) (h : nextFails s.failures = false) :
    s.perform (.writeW .latch) =
      { s with x := { s.x with latch := s.w }, position := s.position.map Position.advance,
               failures := consumeDraw s.failures, trace := s.trace ++ [evWr s.cfg.regLatch s.w] } := by
  rw [perform_busy hp, State.doMicro, State.memWrite, transport_ok (by exact h)]; rfl

/-- `MemWrite(REG_LATCH, 1, setbit(W, p, l))` that does not fail. -/
theorem perform_writeWBit_latch {s : State} (hp : s.phase = .busy) (h : nextFails s.failures = false) (p : Nat) (l : Bool) :
    s.perform (.writeWBit .latch p l) =
      { s with x := { s.x with latch := setbit s.w p l }, position := s.position.map Position.advance,
               failures := consumeDraw s.failures, trace := s.trace ++ [evWr s.cfg.regLatch (setbit s.w p l)] } := by
  rw [perform_busy hp, State.doMicro, State.memWrite, transport_ok (by exact h)]; rfl

/-- The transport answers the `m`-th of the next `n` transport primitives. -/
theorem nextFails_consumeDraws {n m : Nat} {fs : List Nat} (ok : transportOk n fs = true) (h : m < n) :
    nextFails (consumeDraws m fs) = false :=
  nextFails_of_transportOk (n := n - m - 1) (transportOk_consume m _ fs (by rw [← ok]; congr 1; omega))

/-- `t` is `s` after some statements of a request, still BUSY: the expander is `x`, the working image `w`, the trace
grew by `es`, `n` transport primitives and `r` latch reads were taken. -/
structure Ran (s t : State) (x : Expander) (w : Byte) (es : List Event) (n r : Nat) : Prop where
  phase       : t.phase = .busy
  cfg         : t.cfg = s.cfg
  initialized : t.initialized = s.initialized
  currentLine : t.currentLine = s.currentLine
  fault       : t.fault = s.fault
  resp        : t.resp = s.resp
  host        : t.host = s.host
  x           : t.x = x
  w           : t.w = w
  trace       : t.trace = s.trace ++ es
  failures    : t.failures = consumeDraws n s.failures
  draws       : t.draws = drawsPlus s.cfg s.draws r

theorem Ran.start {s : State} (hp : s.phase = .busy) : Ran s s s.x s.w [] 0 0 :=
  ⟨hp, rfl, rfl, rfl, rfl, rfl, rfl, rfl, rfl, by simp, rfl, (drawsPlus_zero _ _).symm⟩

variable {s t : State} {x : Expander} {w : Byte} {es : List Event} {n r N : Nat}

theorem Ran.consume (h : Ran s t x w es n r) : consumeDraw t.failures = consumeDraws (n + 1) s.failures := by
  rw [h.failures, ← consumeDraws_add n 1]; rfl

theorem Ran.ok (h : Ran s t x w es n r) (ok : transportOk N s.failures = true) (hn : n < N) :
    nextFails t.failures = false := by
  rw [h.failures]; exact nextFails_consumeDraws ok hn

theorem Ran.setW (h : Ran s t x w es n r) (p : Nat) (l : Bool) :
    Ran s (t.perform (.setW p l)) x (setbit w p l) es n r := by
  rw [perform_setW h.phase]
  exact ⟨h.phase, h.cfg, h.initialized, h.currentLine, h.fault, h.resp, h.host, h.x, by simp [h.w], h.trace,
    h.failures, h.draws⟩

theorem Ran.wait (h : Ran s t x w es n r) (k : Nat) :
    Ran s (t.perform (.wait k)) x w (es ++ [evWait k]) n r := by
  rw [perform_wait h.phase]
  exact ⟨h.phase, h.cfg, h.initialized, h.currentLine, h.fault, h.resp, h.host, h.x, h.w, by simp [h.trace],
    h.failures, h.draws⟩

theorem Ran.readDir (h : Ran s t x w es n r) (ok : transportOk N s.failures = true) (hn : n < N) :
    Ran s (t.perform (.read .dir)) x x.dir (es ++ [evRd s.cfg.regDir x.dir]) (n + 1) r := by
  rw [perform_readDir h.phase (h.ok ok hn)]
  exact ⟨h.phase, h.cfg, h.initialized, h.currentLine, h.fault, h.resp, h.host, h.x, by simp [h.x],
    by simp [h.trace, h.cfg, h.x], h.consume, h.draws⟩

theorem Ran.readLatch (h : Ran s t x w es n r) (ok : transportOk N s.failures = true) (hn : n < N) :
    Ran s (t.perform (.read .latch)) x (latchRead s.cfg x (s.draws + r))
      (es ++ [evRd s.cfg.regLatch (latchRead s.cfg x (s.draws + r))]) (n + 1) (r + 1) := by
  rw [perform_readLatch h.phase (h.ok ok hn)]
  exact ⟨h.phase, h.cfg, h.initialized, h.currentLine, h.fault, h.resp, h.host, h.x,
    by simp [h.x, h.cfg, h.draws, latchRead_drawsPlus],
    by simp [h.trace, h.x, h.cfg, h.draws, latchRead_drawsPlus], h.consume,
    by simp [h.cfg, h.draws, drawsPlus_add]⟩

theorem Ran.writeDir (h : Ran s t x w es n r) (ok : transportOk N s.failures = true) (hn : n < N) :
    Ran s (t.perform (.writeW .dir)) { x with dir := w } w (es ++ [evWr s.cfg.regDir w]) (n + 1) r := by
  rw [perform_writeW_dir h.phase (h.ok ok hn)]
  exact ⟨h.phase, h.cfg, h.initialized, h.currentLine, h.fault, h.resp, h.host, by simp [h.x, h.w], h.w,
    by simp [h.trace, h.cfg, h.w], h.consume, h.draws⟩

theorem Ran.writeLatch (h : Ran s t x w es n r) (ok : transportOk N s.failures = true) (hn : n < N) :
    Ran s (t.perform (.writeW .latch)) { x with latch := w } w (es ++ [evWr s.cfg.regLatch w]) (n + 1) r := by
  rw [perform_writeW_latch h.phase (h.ok ok hn)]
  exact ⟨h.phase, h.cfg, h.initialized, h.currentLine, h.fault, h.resp, h.host, by simp [h.x, h.w], h.w,
    by simp [h.trace, h.cfg, h.w], h.consume, h.draws⟩

theorem Ran.writeLatchBit (h : Ran s t x w es n r) (ok : transportOk N s.failures = true) (hn : n < N) (p : Nat)
    (l : Bool) :
    Ran s (t.perform (.writeWBit .latch p l)) { x with latch := setbit w p l } w
      (es ++ [evWr s.cfg.regLatch (setbit w p l)]) (n + 1) r := by
  rw [perform_writeWBit_latch h.phase (h.ok ok hn)]
  exact ⟨h.phase, h.cfg, h.initialized, h.currentLine, h.fault, h.resp, h.host, by simp [h.x, h.w], h.w,
    by simp [h.trace, h.cfg, h.w], h.consume, h.draws⟩

/-- Statements that ran as a script's act are told by the script. -/
theorem Ran.played (h : Ran s t x w es n r) {as : List Act} (hx : x = playEnd s.cfg s.x s.draws as)
    (he : es = playEvents s.cfg s.x s.draws as) (hn : n = scriptTransports as) (hr : r = scriptReads as) :
    Played s t as :=
  ⟨h.phase, h.cfg, h.initialized, h.currentLine, h.fault, h.resp, h.host, h.x.trans hx, he ▸ h.trace,
    hn ▸ h.failures, hr ▸ h.draws⟩

/-- A pin-level change of the direction register (40_expander.md R122, R123). -/
theorem Performs.dirBit (c : Config) (p : Nat) (l : Bool) : Performs c (dirBit p l) [.dirPin p l] := by
  intro s _ hp ok
  by_cases hp7 : p > 7
  · simp only [Machine.dirBit, rmwBit, hp7, if_true, run_nil]
    exact (Ran.start hp).played (by simp [playEnd, Act.after, hp7])
      (by simp [playEvents, Act.events, pinEvents, hp7]) (by simp [scriptTransports, Act.transports, hp7]) rfl
  · have ok : transportOk 2 s.failures = true := by simpa [scriptTransports, Act.transports, hp7] using ok
    simp only [Machine.dirBit, rmwBit, hp7, if_false, run_cons, run_nil]
    exact (((Ran.start hp).readDir ok (by omega)).setW p l |>.writeDir ok (by omega)).played
      (by simp [playEnd, Act.after, hp7]) (by simp [playEvents, Act.events, pinEvents, hp7])
      (by simp [scriptTransports, Act.transports, hp7]) rfl

/-- A pin-level change of the latch register (40_expander.md R122, R124). -/
theorem Performs.latchBit (c : Config) (p : Nat) (l : Bool) : Performs c (latchBit p l) [.latchPin p l] := by
  intro s _ hp ok
  by_cases hp7 : p > 7
  · simp only [Machine.latchBit, rmwBit, hp7, if_true, run_nil]
    exact (Ran.start hp).played (by simp [playEnd, Act.after, hp7])
      (by simp [playEvents, Act.events, pinEvents, hp7]) (by simp [scriptTransports, Act.transports, hp7])
      (by simp [scriptReads, Act.reads, hp7])
  · have ok : transportOk 2 s.failures = true := by simpa [scriptTransports, Act.transports, hp7] using ok
    simp only [Machine.latchBit, rmwBit, hp7, if_false, run_cons, run_nil]
    exact (((Ran.start hp).readLatch ok (by omega)).setW p l |>.writeLatch ok (by omega)).played
      (by simp [playEnd, Act.after, hp7]) (by simp [playEvents, Act.events, pinEvents, hp7])
      (by simp [scriptTransports, Act.transports, hp7]) (by simp [scriptReads, Act.reads, hp7])

/-- The steady nibble (41_parallel_bus.md R141). -/
theorem Performs.nibble (c : Config) (n : Nibble) : Performs c (nibbleBody c n) [.nib n] := by
  intro s hc hp ok
  have ok : transportOk 4 s.failures = true := ok
  subst hc
  simp only [nibbleBody, placeW, List.flatten_cons, List.flatten_nil, List.append_nil, List.cons_append, List.nil_append,
    run_cons, run_nil]
  have h := ((((((Ran.start hp).readLatch ok (by omega)).setW s.cfg.pins.db4.val (n.getLsbD 0)).setW
    s.cfg.pins.db5.val (n.getLsbD 1)).setW s.cfg.pins.db6.val (n.getLsbD 2)).setW
    s.cfg.pins.db7.val (n.getLsbD 3)).setW s.cfg.pins.e.val false
  exact (((((h.writeLatch ok (by omega)).wait s.cfg.tSetup).writeLatchBit ok (by omega) s.cfg.pins.e.val true).wait
    s.cfg.tPulse |>.writeLatch ok (by omega)).wait s.cfg.tHold).played rfl
    (by simp [playEvents, Act.events, nibbleEvents, nibbleImage, placeNibble]) rfl rfl

/-- The cold-start nibble (41_parallel_bus.md R142). -/
theorem Performs.nibinit (c : Config) (n : Nibble) : Performs c (nibinitBody c n) (nibinitScript c n) := by
  have h := fun p l => Performs.latchBit c p l
  have w := Performs.wait c c.tInitNib
  have := ((((((((((h c.pins.db4 (n.getLsbD 0)).append (h c.pins.db5 (n.getLsbD 1))).append
    (h c.pins.db6 (n.getLsbD 2))).append (h c.pins.db7 (n.getLsbD 3))).append w).append
    (h c.pins.e false)).append w).append (h c.pins.e true)).append w).append (h c.pins.e false)).append w
  simpa [nibinitBody, nibinitScript] using this

/-- The byte sender (41_parallel_bus.md R143). -/
theorem Performs.sendByte (c : Config) (b : Byte) (m : Bool) : Performs c (sendByteBody c b m) (sendScript c b m) := by
  have := ((Performs.latchBit c c.pins.rs m).append (Performs.nibble c (highNibble b))).append
    (Performs.nibble c (lowNibble b))
  simpa [sendByteBody, sendScript] using this

/-- The optional wait after a clear command (42_controller.md R174). -/
theorem Performs.extra (c : Config) : Performs c (clearExtra c) (extraScript c) := by
  unfold clearExtra extraScript
  by_cases h : c.tClearExtra = 0
  · simpa [h] using Performs.nil c
  · simpa [h, Nat.pos_of_ne_zero h] using Performs.wait c c.tClearExtra

/-- The cold start up to its power-on wait (42_controller.md R174). -/
theorem Performs.power (c : Config) : Performs c (coldUnpowered c) (powerScript c) := by
  have L := fun p l => Performs.latchBit c p l
  have D := fun p l => Performs.dirBit c p l
  have := (Performs.enter c .unpowered).append <| (Performs.writeBuf c c.initDirMask).append <|
    (D c.pins.bl false).append <| (L c.pins.bl true).append <| (L c.pins.rs false).append <|
    (L c.pins.e false).append <| (D c.pins.rs false).append <| (D c.pins.e false).append <|
    (D c.pins.db4 false).append <| (D c.pins.db5 false).append <| (D c.pins.db6 false).append <|
    (D c.pins.db7 false).append <| Performs.wait c c.tPower
  simpa [coldUnpowered, powerScript] using this

/-- The cold start up to its last primitive (42_controller.md R174). -/
def coldPrimitives (c : Config) : List Micro :=
  List.flatten [coldUnpowered c, coldForced8bit c, coldSwitchTo4bit c, coldConfigured c, [.enter .ready]]

/-- The cold start sets the flag after its last primitive (42_controller.md R174, 92 D10). -/
theorem coldStart_eq (c : Config) : coldStart c = coldPrimitives c ++ [.setInitialized] := by
  simp [coldStart, coldPrimitives]

/-- The cold start performs its script (42_controller.md R174). -/
theorem Performs.cold (c : Config) : Performs c (coldPrimitives c) (coldScript c) := by
  have E := fun st => Performs.enter c st
  have W := fun n => Performs.wait c n
  have N := fun n => Performs.nibinit c n
  have S := fun b => Performs.sendByte c b false
  have := (Performs.power c).append <|
    (E .forced8bit).append <| (N 0x3).append <| (W c.tS1).append <| (N 0x3).append <| (W c.tS2).append <|
    (N 0x3).append <| (W c.tS3).append <|
    (E .switchTo4bit).append <| (N 0x2).append <| (W c.tS4).append <|
    (E .configured).append <| (S c.cmdFunctionSet).append <| (S c.cmdDisplayOff).append <|
    (S c.cmdClear).append <| (Performs.extra c).append <| (S c.cmdEntryMode).append <|
    (S c.cmdDisplayOn).append <| (S (homeByte c)).append <| E .ready
  simpa [coldPrimitives, coldForced8bit, coldSwitchTo4bit, coldConfigured, coldScript, homeByte] using this

/-- CLEAR on an initialised block (43_host_operations.md R201). -/
theorem Performs.clear (c : Config) : Performs c (clearBody c) (clearScript c) := by
  have := ((Performs.sendByte c c.cmdClear false).append (Performs.extra c)).append
    (Performs.sendByte c (cursorByte c 0 0) false)
  simpa [clearBody, clearScript] using this

/-- The spaces of CLEARLINE (43_host_operations.md R202). -/
theorem Performs.spaces (c : Config) (n : Nat) : Performs c (spaces c n) (spacesScript c n) := by
  induction n with
  | zero => exact Performs.nil c
  | succ n ih => exact (Performs.sendByte c 0x20 true).append ih

/-- A position of `PIN_MAP` is never out of range (40_expander.md R122). -/
theorem pin_not_above_seven (q : Fin 8) : ¬ 7 < q.val := by omega

/-! ## The statements that write the session registers and the response -/

theorem run_setInitialized {s : State} (hp : s.phase = .busy) :
    s.run [.setInitialized] = { s with initialized := true, position := s.position.map Position.advance } := by
  simp only [run_cons, run_nil, perform_busy hp]; rfl

theorem run_setLine {s : State} (hp : s.phase = .busy) (l : Line) :
    s.run [.setLine l] = { s with currentLine := l, position := s.position.map Position.advance } := by
  simp only [run_cons, run_nil, perform_busy hp]; rfl

theorem run_respond {s : State} (hp : s.phase = .busy) :
    s.run [.respond] = { s with resp := response .ok 0, position := s.position.map Position.advance } := by
  simp only [run_cons, run_nil, perform_busy hp]; rfl

theorem run_respondW {s : State} (hp : s.phase = .busy) :
    s.run [.respondW] = { s with resp := response .ok s.w, position := s.position.map Position.advance } := by
  simp only [run_cons, run_nil, perform_busy hp]; rfl

/-- A request whose whole effect is a script completes as the script says, with the session registers kept. -/
theorem completes_of_performs {s : State} {i : Instr} {ms : List Micro} {as : List Act}
    (h : Performs s.cfg ms as) (he : expansionOf s i = ms ++ [.respond]) (hp : s.phase = .idle)
    (ok : transportOk (scriptTransports as) s.failures = true) :
    ∃ t, exec i s = .next t ∧
      Completes s t (playEnd s.cfg s.x s.draws as) (playEvents s.cfg s.x s.draws as) 0 ∧ SessionKept s t := by
  refine ⟨_, exec_idle hp i, ?_⟩
  have p := h (s.accept i (expansionOf s i)) rfl rfl ok
  rw [he] at p ⊢
  rw [run_append, run_respond p.phase, complete_busy (by exact p.phase)]
  exact ⟨⟨rfl, rfl, p.fault, p.cfg, p.host, p.x, p.trace, rfl⟩, p.initialized, p.currentLine⟩

/-! ## The transport primitives of the scripts -/

theorem scriptTransports_send (c : Config) (b : Byte) (m : Bool) : scriptTransports (sendScript c b m) = 10 := by
  simp [sendScript, scriptTransports, Act.transports, pin_not_above_seven]

theorem scriptTransports_nibinit (c : Config) (n : Nibble) : scriptTransports (nibinitScript c n) = 14 := by
  simp [nibinitScript, scriptTransports, Act.transports, pin_not_above_seven]

theorem scriptTransports_extra (c : Config) : scriptTransports (extraScript c) = 0 := by
  rw [extraScript]; split <;> rfl

/-- The cold start's 137 (42_controller.md R174). -/
theorem scriptTransports_cold (c : Config) : scriptTransports (coldScript c) = 137 := by
  simp [coldScript, scriptTransports_send, scriptTransports_nibinit, scriptTransports_extra, powerScript,
    scriptTransports, Act.transports, pin_not_above_seven]

/-- CLEAR's 20 (43_host_operations.md R201). -/
theorem scriptTransports_clear (c : Config) : scriptTransports (clearScript c) = 20 := by
  simp [clearScript, scriptTransports_send, scriptTransports_extra]

theorem scriptTransports_spaces (c : Config) (n : Nat) : scriptTransports (spacesScript c n) = 10 * n := by
  induction n with
  | zero => rfl
  | succ n ih => simp [spacesScript, scriptTransports_send, ih]; omega

/-- CLEARLINE's 170 (43_host_operations.md R202). -/
theorem scriptTransports_clearline (c : Config) (l : Line) (h : c.columns = 16) :
    scriptTransports (clearlineScript c l) = 170 := by
  simp [clearlineScript, scriptTransports_send, scriptTransports_spaces, h]

end Sys2Proof.Machine
end

