-- ==== Sys2Proof/Tests/Slice0.lean ====
section
/-! SUPPORT. Tests and witnesses. Every expected result is the spec's: the words are written out from 30_encoding.md R81
and R84, the one-step results are vectors of 95_test_vectors.md, named in each comment. A `witness_` theorem shows that
the hypotheses of the statement it is named after are met together, clause by clause. -/

namespace Sys2Proof.Tests

open Sys2Proof Sys2Proof.Machine

/-! ## Decoding: one word per request, written out bit by bit (30_encoding.md R81, R84) -/

/-- opcode 0001, bits [11:8] zero, b = 10100101. -/
theorem test_decode_setdir : decode 0b0001000010100101#16 = .ok (.setdir 0xA5) := by decide
/-- opcode 0010, p = 1000, bits [7:1] zero, l = 0. -/
theorem test_decode_pinmode : decode 0b0010100000000000#16 = .ok (.pinmode 8 false) := by decide
/-- opcode 0011, p = 0111, l = 1. -/
theorem test_decode_wrpin : decode 0b0011011100000001#16 = .ok (.wrpin 7 true) := by decide
/-- opcode 0100. -/
theorem test_decode_rdlatch : decode 0b0100000000000000#16 = .ok .rdlatch := by decide
/-- opcode 0101, b = 00000001. -/
theorem test_decode_wrlatch : decode 0b0101000000000001#16 = .ok (.wrlatch 0x01) := by decide
/-- opcode 0110, n = 0100. -/
theorem test_decode_nibble : decode 0b0110000000000100#16 = .ok (.nibble 0x4) := by decide
/-- opcode 0111, n = 0011. -/
theorem test_decode_nibinit : decode 0b0111000000000011#16 = .ok (.nibinit 0x3) := by decide
/-- opcode 1000, bits [11:9] zero, m = 1, b = 01000001. -/
theorem test_decode_sendbyte : decode 0b1000000101000001#16 = .ok (.sendbyte 0x41 true) := by decide
/-- opcode 1001, b = 00000001. -/
theorem test_decode_sendcmd : decode 0b1001000000000001#16 = .ok (.sendcmd 0x01) := by decide
/-- opcode 1010, b = 01001000. -/
theorem test_decode_sendchar : decode 0b1010000001001000#16 = .ok (.sendchar 0x48) := by decide
/-- opcode 1011. -/
theorem test_decode_init : decode 0b1011000000000000#16 = .ok .init := by decide
/-- opcode 1100, r = 0001, c = 10000000, which is −128. -/
theorem test_decode_setcursor : decode 0b1100000110000000#16 = .ok (.setcursor 1 (-128)) := by decide
/-- opcode 1101, q = 0, l = 1. -/
theorem test_decode_linesel : decode 0b1101000000000001#16 = .ok (.linesel .bottom) := by decide
/-- opcode 1101, q = 1, l = 0. -/
theorem test_decode_linesel_cur : decode 0b1101000000000010#16 = .ok .lineselCur := by decide
/-- opcode 1110. -/
theorem test_decode_clear : decode 0b1110000000000000#16 = .ok .clear := by decide
/-- opcode 1111, l = 1. -/
theorem test_decode_clearline : decode 0b1111000000000001#16 = .ok (.clearline .bottom) := by decide

/-- The illegal words of 95_test_vectors.md section 2.2, each rejected by name. -/
theorem test_decode_rejects :
    decode 0x0123#16 = .error .opcodeZero ∧ decode 0x1100#16 = .error .reservedBits ∧
    decode 0x2002#16 = .error .reservedBits ∧ decode 0x3202#16 = .error .reservedBits ∧
    decode 0x4001#16 = .error .reservedBits ∧ decode 0x6010#16 = .error .reservedBits ∧
    decode 0x8200#16 = .error .reservedBits ∧ decode 0xB001#16 = .error .reservedBits ∧
    decode 0xE100#16 = .error .reservedBits ∧ decode 0xD003#16 = .error .lineselCurWithLine ∧
    decode 0xD004#16 = .error .reservedBits ∧ decode 0xF002#16 = .error .reservedBits := by decide

/-! ## Well-formedness refuses each ill-formed term (30_encoding.md R82; 00_scope.md R8, R9; 70 R275) -/

theorem test_wf_pin_too_large : (Instr.pinmode 16 true).wellFormed = false := by decide
theorem test_wf_wrpin_too_large : (Instr.wrpin 16 true).wellFormed = false := by decide
theorem test_wf_row_too_large : (Instr.setcursor 16 0).wellFormed = false := by decide
theorem test_wf_column_too_large : (Instr.setcursor 0 128).wellFormed = false := by decide
theorem test_wf_column_too_small : (Instr.setcursor 0 (-129)).wellFormed = false := by decide
theorem test_wf_boundary : (Instr.setcursor 15 (-128)).wellFormed = true ∧ (Instr.setcursor 15 127).wellFormed = true ∧
    (Instr.pinmode 15 true).wellFormed = true := by decide
theorem test_wf_default_config : defaultConfig.wellFormed = true := by decide
theorem test_wf_pins_collide : { defaultConfig with pins := { defaultPins with e := 1 } }.wellFormed = false := by decide
theorem test_wf_address_too_low : { defaultConfig with devAddr := 0x1F }.wellFormed = false := by decide
theorem test_wf_address_too_high : { defaultConfig with devAddr := 0x28 }.wellFormed = false := by decide
theorem test_wf_register_ids_collide : { defaultConfig with regLatch := 0x00 }.wellFormed = false := by decide
theorem test_wf_power_wait_short : { defaultConfig with tPower := 99999 }.wellFormed = false := by decide
theorem test_wf_s1_short : { defaultConfig with tS1 := 99999 }.wellFormed = false := by decide
theorem test_wf_s2_short : { defaultConfig with tS2 := 4099 }.wellFormed = false := by decide
theorem test_wf_s3_short : { defaultConfig with tS3 := 99 }.wellFormed = false := by decide
theorem test_wf_s4_short : { defaultConfig with tS4 := 99 }.wellFormed = false := by decide
theorem test_wf_setup_short : { defaultConfig with tSetup := 0 }.wellFormed = false := by decide
theorem test_wf_pulse_short : { defaultConfig with tPulse := 0 }.wellFormed = false := by decide
theorem test_wf_hold_short : { defaultConfig with tHold := 99 }.wellFormed = false := by decide
theorem test_wf_init_nibble_wait_short : { defaultConfig with tInitNib := 0 }.wellFormed = false := by decide
theorem test_wf_time_unit_empty : { defaultConfig with tUnit := 0 }.wellFormed = false := by decide
theorem test_wf_columns : { defaultConfig with columns := 20 }.wellFormed = false := by decide
theorem test_wf_lines : { defaultConfig with lines := 4 }.wellFormed = false := by decide
theorem test_wf_top_base_too_high : { defaultConfig with lineBaseTop := 113 }.wellFormed = false := by decide
theorem test_wf_bottom_base_too_high : { defaultConfig with lineBaseBottom := 113 }.wellFormed = false := by decide

/-! ## One step -/

/-- A small state: the default parameters, the expander, the session registers and the coming failures given. -/
def mk (dir latch : Byte) (initialized : Bool) (line : Line) (failures : List Nat) : State :=
  { State.reset with x := { dir := dir, latch := latch }, initialized := initialized, currentLine := line,
                     failures := failures }

/-- A block right after reset with a transport that does not fail (at State.reset itself that is open, log 2). -/
abbrev coldReady : State := mk 0xFF 0x00 false .top []

/-- The state after the next step has run the word `w`. -/
def after (s : State) (w : Nat) : State := nextOr s (step (s.withFetchWord 16 w))

/-- The written values of the `WR` events on the latch register, in order. -/
def latchWrites (es : List Event) : List Nat :=
  es.filterMap fun e => match e.action with
    | .wr _ v  => some v.toNat
    | .rd _ _  => none
    | .wb _ _  => none
    | .wait _  => none

/-- X1. -/
theorem test_setdir : (after (mk 0xFF 0x80 false .top []) 0x1000).trace = [evWb 0x00 0x00] ∧
    (after (mk 0xFF 0x80 false .top []) 0x1000).x = { dir := 0x00, latch := 0x80 } := by decide +kernel
/-- X3. -/
theorem test_pinmode : (after (mk 0xFF 0x80 false .top []) 0x2700).trace = [evRd 0x00 0xFF, evWr 0x00 0x7F] ∧
    (after (mk 0xFF 0x80 false .top []) 0x2700).x = { dir := 0x7F, latch := 0x80 } := by decide +kernel
/-- X5. -/
theorem test_pinmode_above_seven : (after (mk 0xFF 0x80 false .top []) 0x2800).trace = [] := by decide +kernel
/-- X8, and RDLATCH after it (W1). -/
theorem test_wrpin : (after (mk 0x01 0x82 false .top []) 0x3100).trace = [evRd 0x09 0x82, evWr 0x09 0x80] ∧
    (after (after (mk 0x01 0x82 false .top []) 0x3100) 0x4000).resp = 0x0080 := by decide +kernel
/-- X9. -/
theorem test_wrpin_above_seven : (after (mk 0x01 0x00 false .top []) 0x3901).trace = [] ∧
    (after (mk 0x01 0x00 false .top []) 0x3901).resp = 0x0000 := by decide +kernel
/-- X10. -/
theorem test_rdlatch : (after (mk 0x01 0x98 false .top []) 0x4000).trace = [evRd 0x09 0x98] ∧
    (after (mk 0x01 0x98 false .top []) 0x4000).resp = 0x0098 := by decide +kernel
/-- X11. -/
theorem test_wrlatch : (after (mk 0x01 0x80 false .top []) 0x5001).trace = [evWr 0x09 0x01] ∧
    (after (mk 0x01 0x80 false .top []) 0x5001).x.latch = 0x01 := by decide +kernel
/-- B4: E is high on entry. -/
theorem test_nibble : (after (mk 0x01 0x84 false .top []) 0x6001).trace =
    [evRd 0x09 0x84, evWr 0x09 0x88, evWait 1, evWr 0x09 0x8C, evWait 1, evWr 0x09 0x88, evWait 100] := by decide +kernel
/-- B5: the writes of NIBINIT with E high on entry. -/
theorem test_nibinit : latchWrites (after (mk 0x01 0x84 false .top []) 0x7003).trace =
    [0x8C, 0x9C, 0x9C, 0x9C, 0x98, 0x9C, 0x98] ∧
    countEvents (after (mk 0x01 0x84 false .top []) 0x7003).trace = { rd := 7, wr := 7, wait := 4, total := 18 } := by
  decide +kernel
/-- B7. -/
theorem test_sendbyte : latchWrites (after (mk 0x01 0x80 false .top []) 0x8141).trace =
    [0x82, 0xA2, 0xA6, 0xA2, 0x8A, 0x8E, 0x8A] := by decide +kernel
/-- C1. -/
theorem test_sendcmd : latchWrites (after (mk 0x01 0x80 false .top []) 0x9001).trace =
    [0x80, 0x80, 0x84, 0x80, 0x88, 0x8C, 0x88] := by decide +kernel
/-- C2. -/
theorem test_sendchar : latchWrites (after (mk 0x01 0x80 false .top []) 0xA048).trace =
    [0x82, 0xA2, 0xA6, 0xA2, 0xC2, 0xC6, 0xC2] := by decide +kernel
/-- C14 and section 3: the end state and the totals of the reference cold-start trace. -/
theorem test_init :
    let t := after coldReady 0xB000
    t.x = { dir := 0x01, latch := 0x80 } ∧ t.initialized = true ∧ t.currentLine = .top ∧ t.resp = 0x0000 ∧
    countEvents t.trace = { rd := 56, wr := 80, wait := 57, total := 194 } ∧ waitUnits t.trace = 205540 := by
  decide +kernel
/-- F4: the 60th transport primitive of the cold start fails. -/
theorem test_init_fault :
    let t := after (mk 0xFF 0x00 false .top [59]) 0xB000
    t.x = { dir := 0x01, latch := 0x98 } ∧ t.initialized = false ∧ t.phase = .faulted ∧ t.trace.length = 73 ∧
    t.trace.getLast? = some { action := .rd 0x09 0x98, failed := true } := by decide +kernel
/-- C10: row 15 is the bottom line and column −1 clamps to 0: command 0xC0. -/
theorem test_setcursor : latchWrites (after (mk 0x01 0x80 false .top []) 0xCFFF).trace =
    latchWrites (after (mk 0x01 0x80 false .top []) 0x90C0).trace := by decide +kernel
/-- C11. -/
theorem test_linesel : latchWrites (after (mk 0x01 0x80 true .top []) 0xD001).trace =
    [0x80, 0xE0, 0xE4, 0xE0, 0x80, 0x84, 0x80] ∧
    (after (mk 0x01 0x80 true .top []) 0xD001).currentLine = .bottom := by decide +kernel
/-- F5: the last write of LINESEL fails. -/
theorem test_linesel_fault :
    let t := after (mk 0x01 0x80 true .top [9]) 0xD001
    t.x.latch = 0x84 ∧ t.currentLine = .top ∧ t.phase = .faulted ∧ t.resp = 0x0100 ∧
    t.fault = some { cause := .transportFault, kind := .wr, reg := 0x09, written := some 0x80 } := by decide +kernel
/-- C12. -/
theorem test_linesel_cur : latchWrites (after (mk 0x01 0x80 true .bottom []) 0xD002).trace =
    [0x80, 0xE0, 0xE4, 0xE0, 0x80, 0x84, 0x80] ∧
    (after (mk 0x01 0x80 true .bottom []) 0xD002).currentLine = .bottom := by decide +kernel
/-- H1. -/
theorem test_clear : latchWrites (after (mk 0x01 0x80 true .bottom []) 0xE000).trace =
    [0x80, 0x80, 0x84, 0x80, 0x88, 0x8C, 0x88, 0x88, 0xC0, 0xC4, 0xC0, 0x80, 0x84, 0x80] ∧
    (after (mk 0x01 0x80 true .bottom []) 0xE000).currentLine = .bottom := by decide +kernel
/-- H3. -/
theorem test_clearline :
    let t := after (mk 0x01 0x80 true .top []) 0xF001
    t.trace.length = 272 ∧ t.currentLine = .bottom ∧ t.x.latch = 0x82 := by decide +kernel
/-- Section 2.2: an illegal word answers 0x0200 and changes nothing else. -/
theorem test_illegal_word : after (mk 0x01 0x80 true .bottom []) 0xD003 =
    { mk 0x01 0x80 true .bottom [] with resp := 0x0200 } := by decide +kernel

/-! ## What the LCD receives, and the host's expansions -/

/-- A draw in which the unwired lines are low and nothing strays. -/
def quiet : Nat → LcdDraw := fun _ =>
  { idle := [], settle := { rs := false, nib := 0, low := 0, ready := false }, stray := none }

/-- What a synchronised LCD receives while the word `w` runs from `s`. -/
def lcdAfter (s : State) (w : Nat) : Lcd :=
  Lcd.observe s.cfg quiet s.x (after s w).trace { Lcd.powerOn with iface := .fourHi }

/-- B7: the LCD receives data 0x41. -/
theorem test_lcd_receives_the_byte : (lcdAfter (mk 0x01 0x80 true .top []) 0x8141).received = [(true, 0x41)] := by
  decide +kernel
/-- B4: E high on entry makes two captures, the second one the nibble 0x1. -/
theorem test_lcd_captures_twice_when_e_is_high :
    (lcdAfter (mk 0x01 0x84 true .top []) 0x6001).captured.map (fun c => (c.rs, c.nib)) =
      [(false, 0x0), (false, 0x1)] := by decide +kernel
/-- Section 3: four nibbles and then six command bytes, ending in 4-bit mode at the high nibble. -/
theorem test_lcd_cold_start :
    let l := Lcd.observe defaultConfig quiet State.reset.x (after coldReady 0xB000).trace Lcd.powerOn
    l.iface = .fourHi ∧ (l.captured.take 4).map (fun c => c.nib) = [0x3, 0x3, 0x3, 0x2] ∧
    l.received.drop 4 = [(false, 0x28), (false, 0x08), (false, 0x01), (false, 0x06), (false, 0x0C), (false, 0x80)] := by
  decide +kernel

/-- R152: while E is undriven, a request without an event still leaves room for captures. -/
theorem test_lcd_captures_while_e_is_undriven :
    (Lcd.observe defaultConfig (fun n => { quiet n with idle := [{ rs := true, nib := 0x5, low := 0x6, ready := true }] })
      coldReady.x (after coldReady 0x3901).trace Lcd.powerOn).received = [(true, 0x56)] := by decide +kernel
/-- R266: the command after a clear-display, here a function set with DL = 1, need not be executed. -/
theorem test_lcd_may_skip_the_command_after_a_clear :
    let l := Lcd.observe defaultConfig quiet (mk 0x01 0x80 true .top []).x
      (after (after (mk 0x01 0x80 true .top []) 0x9001) 0x9038).trace { Lcd.powerOn with iface := .fourHi }
    l.received = [(false, 0x01), (false, 0x38)] ∧ l.executed = [(false, 0x01)] ∧ l.iface = .fourHi := by decide +kernel
/-- R8: the host's text follows COLUMNS. -/
theorem test_write_line_follows_columns :
    (writeLine { defaultConfig with columns := 2 } .top ['a', 'b', 'c']).map wordsOf =
      some [0xB000, 0xD000, 0xA061, 0xA062] := by decide +kernel
/-- H4. -/
theorem test_write_text : (writeText defaultConfig 1 20 ['X']).map wordsOf = some [0xB000, 0xC10F, 0xA058] := by decide +kernel
/-- H5. -/
theorem test_log : (logNumber defaultConfig (fun (_ : Nat) => ['4', '2']) 42).map wordsOf =
    some ([0xB000, 0xD002, 0xA034, 0xA032] ++ List.replicate 14 0xA020) := by decide +kernel
/-- H6. -/
theorem test_log_value : (logValue defaultConfig (fun (_ : Nat) => ['7']) ['T'] 7).map wordsOf =
    some ([0xB000, 0xD002, 0xA054, 0xA03A, 0xA037] ++ List.replicate 13 0xA020) := by decide +kernel
/-- H8. -/
theorem test_write_line_cuts : (writeLine defaultConfig .bottom "0123456789ABCDEFXYZ".toList).map wordsOf =
    some [0xB000, 0xD001, 0xA030, 0xA031, 0xA032, 0xA033, 0xA034, 0xA035, 0xA036, 0xA037, 0xA038, 0xA039,
      0xA041, 0xA042, 0xA043, 0xA044, 0xA045, 0xA046] := by decide +kernel
/-- H9. -/
theorem test_write_line_latin : (writeLine defaultConfig .top [Char.ofNat 0xE9]).map wordsOf =
    some ([0xB000, 0xD000, 0xA0E9] ++ List.replicate 15 0xA020) := by decide +kernel
/-- H10. -/
theorem test_write_line_refused : writeLine defaultConfig .top [Char.ofNat 0x20AC] = none := by decide

/-! ## Witnesses -/

/-- An initialised block with a display that is set up. -/
abbrev ready : State := mk 0x01 0x80 true .top []
/-- The same block; the transport answers `k` primitives and then fails. -/
abbrev failsAfter (k : Nat) : State := mk 0x01 0x80 true .top [k]
/-- A block after reset; the transport answers `k` primitives and then fails. -/
abbrev coldFailsAfter (k : Nat) : State := mk 0xFF 0x00 false .top [k]
/-- A FAULTED block, as INIT leaves it when its first primitive fails. -/
def stuck : State := after (coldFailsAfter 0) 0xB000
/-- A BUSY block: a NIBBLE accepted and two of its statements executed. -/
def busy : State := iterate State.tick 2 (ready.accept (.nibble 0x5) (nibbleBody defaultConfig 0x5 ++ [Micro.respond]))
/-- A block whose latch reads return pin levels. -/
def portReady : State := { ready with cfg := { defaultConfig with readModel := .port } }
/-- The state a request leaves. -/
def execd (i : Instr) (s : State) : State := nextOr s (exec i s)

theorem eq_next_nextOr {o : Host.Outcome State Fault Refusal} (d : State) (h : isNext o = true) :
    o = .next (nextOr d o) := by
  cases o <;> simp_all [isNext, nextOr]

theorem exec_execd {i : Instr} {s : State} (h : s.phase = .idle) : exec i s = .next (execd i s) := by
  rw [execd, exec_idle h]; rfl

theorem witness_DecodeOfEncodeGivesTheRequest : (Instr.setcursor 15 (-128)).wellFormed = true := by decide

theorem witness_EncodeOfDecodeGivesTheWord : decode 0xCFFF#16 = .ok (.setcursor 15 (-1)) := by decide

/-- The illegal word 0xD003 offered to an IDLE block before a legal word, which is next. -/
theorem witness_IllegalWordsAreTheReservedOnesAndOnlyAnswer :
    ({ ready with host := [.request 0xD003, .request (encode .clear)] } : State).phase = .idle ∧
    (∀ i, decode 0xD003#16 ≠ .ok i) ∧ Instr.clear.wellFormed = true := by
  refine ⟨rfl, fun i => ?_, rfl⟩
  rw [show decode 0xD003#16 = .error .lineselCurWithLine by decide]
  exact fun h => nomatch h

theorem witness_StepRunsTheDecodedRequest :
    (ready.withFetchWord 16 0xF001).phase = .idle ∧ (ready.withFetchWord 16 0xF001).host = [.request 0xF001] ∧
    decode 0xF001#16 = .ok (.clearline .bottom) := by decide

theorem witness_RequestsAreAcceptedOnlyWhileIdleAndRunToCompletion :
    ready.phase = .idle ∧ stuck.phase ≠ .idle ∧ busy.phase ≠ .idle := by decide +kernel

theorem witness_FaultedIsLeftOnlyByBlockReset :
    stuck.phase = .faulted ∧ stuck.host = [] ∧ ({ stuck with host := [.blockReset] } : State).phase = .faulted := by
  decide +kernel

theorem witness_BlockResetSetsTheBlockRegistersOnly :
    ({ stuck with host := [.blockReset] } : State).host = .blockReset :: [] ∧
    ({ busy with host := [.blockReset] } : State).host = .blockReset :: [] := ⟨rfl, rfl⟩

/-- CLEAR on an initialised block: 20 primitives. -/
theorem witness_RequestCompletesExactlyWhenTheTransportAnswers :
    (failsAfter 20).cfg.columns = 16 ∧ (failsAfter 20).phase = .idle ∧
    transportOk (transports (failsAfter 20).initialized .clear) (failsAfter 20).failures = true ∧
    transportOk (transports (failsAfter 19).initialized .clear) (failsAfter 19).failures = false := by decide

theorem witness_TransportFaultIsPrecise :
    (coldFailsAfter 156).cfg.wellFormed = true ∧ (coldFailsAfter 156).phase = .idle ∧
    (coldFailsAfter 156).failures = 156 :: [] ∧ 156 < transports (coldFailsAfter 156).initialized .clear ∧
    exec .clear { (coldFailsAfter 156) with failures := [] } =
      .next (execd .clear { (coldFailsAfter 156) with failures := [] }) :=
  ⟨by decide, rfl, rfl, by decide, exec_execd rfl⟩

/-- CLEARLINE at the boundary of its clause: the first primitive after the line is recorded. -/
theorem witness_TransportFaultIsPrecise_clearline :
    (failsAfter 10).cfg.wellFormed = true ∧ (failsAfter 10).failures = 10 :: [] ∧
    10 < transports (failsAfter 10).initialized (.clearline .bottom) ∧
    exec (.clearline .bottom) { (failsAfter 10) with failures := [] } =
      .next (execd (.clearline .bottom) { (failsAfter 10) with failures := [] }) :=
  ⟨by decide, rfl, by decide, exec_execd rfl⟩

theorem witness_SetdirWritesTheWholeDirectionRegister :
    (failsAfter 1).phase = .idle ∧ transportOk 1 (failsAfter 1).failures = true ∧
    transportOk 1 (failsAfter 0).failures = false := by decide

/-- p = 7 and p = 8 are the boundary; p = 16 has no encoding and is a no-op all the same. -/
theorem witness_PinmodeReplacesOneDirectionBit :
    ready.phase = .idle ∧ (15 ≤ 15 ∧ 8 > 7 ∧ 16 > 7 ∧ 7 ≤ 7) ∧ transportOk 2 (failsAfter 2).failures = true ∧
    transportOk 1 (failsAfter 0).failures = false ∧
    transportOk 1 (failsAfter 1).failures = true ∧ transportOk 2 (failsAfter 1).failures = false := by decide

theorem witness_WrpinReplacesOneLatchBit :
    (failsAfter 2).phase = .idle ∧ (0x80 : Byte) = latchRead (failsAfter 2).cfg (failsAfter 2).x (failsAfter 2).draws ∧
    (8 > 7 ∧ 7 ≤ 7) ∧ transportOk 2 (failsAfter 2).failures = true ∧ transportOk 1 (failsAfter 0).failures = false ∧
    transportOk 1 (failsAfter 1).failures = true ∧ transportOk 2 (failsAfter 1).failures = false := by decide

theorem witness_RdlatchAnswersTheByteRead :
    (failsAfter 1).phase = .idle ∧ (0x80 : Byte) = latchRead (failsAfter 1).cfg (failsAfter 1).x (failsAfter 1).draws ∧
    transportOk 1 (failsAfter 1).failures = true ∧ transportOk 1 (failsAfter 0).failures = false := by decide

theorem witness_WrlatchWritesTheWholeLatch :
    (failsAfter 1).phase = .idle ∧ transportOk 1 (failsAfter 1).failures = true ∧
    transportOk 1 (failsAfter 0).failures = false := by decide

theorem witness_ReadModifyWritePreservesOtherBits :
    (failsAfter 3).phase = .idle ∧ (failsAfter 3).cfg.readModel = .latch ∧
    transportOk 3 (failsAfter 3).failures = true := by decide

theorem witness_PinAboveSevenIsNoOp : 8 > 7 ∧ (failsAfter 0).phase = .idle := by decide

/-- Bit 0 is unused; INIT changes its direction bit, NIBBLE does not. -/
theorem witness_TheUnusedBitIsNeverTouched :
    coldReady.cfg.readModel = .latch ∧ (0 : Fin 8) ∉ coldReady.cfg.pins.positions ∧
    exec .init coldReady = .next (execd .init coldReady) ∧
    exec (.nibble 0xF) ready = .next (execd (.nibble 0xF) ready) :=
  ⟨rfl, by decide, exec_execd rfl, exec_execd rfl⟩

/-- Under `port`, position 7 (BL) of `portReady` is an output and position 0 an input. -/
theorem witness_ReadsReturnTheRegisterOrThePins :
    ready.cfg.readModel = .latch ∧ portReady.cfg.readModel = .port ∧ portReady.x.dir.getLsbD 7 = false ∧
    portReady.x.dir.getLsbD 0 = true := by decide

theorem witness_WrpinKeepsTheOtherOutputPinsUnderAnyReadModel :
    portReady.phase = .idle ∧ transportOk 2 portReady.failures = true ∧ (7 : Nat) ≠ (0 : Fin 8).val ∧
    portReady.x.dir.getLsbD 7 = false := by decide

/-- B4's set-up write: 0x88 from 0x84 and the nibble 0x1. -/
theorem witness_NibbleStrobesTheImageOfTheValueRead :
    let s := mk 0x01 0x84 false .top [4]
    s.phase = .idle ∧ transportOk 4 s.failures = true ∧ (0x84 : Byte) = latchRead s.cfg s.x s.draws ∧
    (0x88 : Byte) = setbit (setbit (setbit (setbit (setbit 0x84 s.cfg.pins.db4 true) s.cfg.pins.db5 false)
      s.cfg.pins.db6 false) s.cfg.pins.db7 false) s.cfg.pins.e false := by decide

theorem witness_NibinitPerformsTheColdStartNibble :
    (failsAfter 14).phase = .idle ∧ transportOk 14 (failsAfter 14).failures = true := by decide

theorem witness_SendbyteSendsHighNibbleThenLowNibble :
    (failsAfter 10).phase = .idle ∧ transportOk 10 (failsAfter 10).failures = true := by decide

theorem witness_TransactionCountsAreFixed :
    (failsAfter 14).phase = .idle ∧ transportOk 4 (failsAfter 4).failures = true ∧
    transportOk 14 (failsAfter 14).failures = true ∧ transportOk 10 (failsAfter 10).failures = true ∧
    (failsAfter 14).cfg.waitsOk = true ∧ (failsAfter 14).cfg = defaultConfig := by decide

theorem witness_EnableIsLowAfterEveryTransfer :
    exec (.nibble 0x1) (mk 0x01 0x84 false .top []) = .next (execd (.nibble 0x1) (mk 0x01 0x84 false .top [])) ∧
    (execd (.nibble 0x1) (mk 0x01 0x84 false .top [])).Safe := ⟨exec_execd rfl, by unfold State.Safe; decide +kernel⟩

theorem witness_NibblesKeepRsBacklightAndUnusedBit :
    (failsAfter 14).phase = .idle ∧ (failsAfter 14).cfg.readModel = .latch ∧
    (failsAfter 14).cfg.pins.distinct = true ∧ transportOk 14 (failsAfter 14).failures = true ∧
    (0 : Fin 8) ∉ (failsAfter 14).cfg.pins.e :: dataPins (failsAfter 14).cfg.pins := by decide

theorem witness_CommandAndCharacterDispatchToSendbyte :
    (failsAfter 10).phase = .idle ∧ transportOk 10 (failsAfter 10).failures = true := by decide

theorem witness_InitPerformsTheColdStart :
    (coldFailsAfter 137).phase = .idle ∧ (coldFailsAfter 137).initialized = false ∧
    (coldFailsAfter 137).cfg.pins.distinct = true ∧ transportOk 137 (coldFailsAfter 137).failures = true := by decide

theorem witness_DefaultColdStartEmits194Events :
    (coldFailsAfter 137).phase = .idle ∧ (coldFailsAfter 137).initialized = false ∧
    (coldFailsAfter 137).cfg = defaultConfig ∧ transportOk 137 (coldFailsAfter 137).failures = true := by decide

theorem witness_SecondInitIsIdempotent : (failsAfter 0).phase = .idle ∧ (failsAfter 0).initialized = true := by decide

/-- From reset: SETDIR, INIT, INIT. -/
theorem witness_ColdStartRunsExactlyOnce :
    coldReady.initialized = false ∧ coldReady.cfg.columns = 16 ∧
    execAll [.setdir 0x00, .init, .init] coldReady =
      .next (execd .init (execd .init (execd (.setdir 0x00) coldReady))) ∧
    (execd .init (execd .init (execd (.setdir 0x00) coldReady))).Safe ∧
    [Instr.setdir 0x00, .init, .init] = [.setdir 0x00] ++ .init :: [.init] ∧
    [Instr.setdir 0x00].any ensuresInit = false ∧ ensuresInit .init = true := by
  have h1 : (execd (.setdir 0x00) coldReady).phase = .idle := by decide +kernel
  have h2 : (execd .init (execd (.setdir 0x00) coldReady)).phase = .idle := by decide +kernel
  refine ⟨rfl, rfl, ?_, by unfold State.Safe; decide +kernel, rfl, rfl, rfl⟩
  simp only [execAll, exec_execd (show coldReady.phase = .idle from rfl), exec_execd h1, exec_execd h2]

theorem witness_InitializedIsMonotone :
    exec .init coldReady = .next (execd .init coldReady) ∧ ready.initialized = true ∧
    (∀ rest, ready.host ≠ .blockReset :: rest) ∧ step ready = .next ready :=
  ⟨exec_execd rfl, rfl, fun _ h => (nomatch h), rfl⟩

theorem witness_OnlyLineOperationsWriteTheCurrentLine :
    exec .clear ready = .next (execd .clear ready) ∧
    exec (.linesel .bottom) ready = .next (execd (.linesel .bottom) ready) ∧
    exec (.clearline .bottom) ready = .next (execd (.clearline .bottom) ready) :=
  ⟨exec_execd rfl, exec_execd rfl, exec_execd rfl⟩

/-- The three clauses at their boundaries (95_test_vectors.md W3). -/
theorem witness_ColumnClampFollowsTheSpec :
    clampedColumn 16 (-128) = 0 ∧ clampedColumn 16 0 = 0 ∧ clampedColumn 16 1 = 1 ∧ clampedColumn 16 15 = 15 ∧
    clampedColumn 16 16 = 15 ∧ clampedColumn 16 127 = 15 := by decide

theorem witness_SetcursorSendsTheCursorByte :
    (failsAfter 10).phase = .idle ∧ transportOk 10 (failsAfter 10).failures = true := by decide

theorem witness_LineselSendsTheLineStartAndRecordsTheLine :
    (failsAfter 10).phase = .idle ∧ Line.top = (failsAfter 10).currentLine ∧
    transportOk 10 (failsAfter 10).failures = true ∧ transportOk 10 (failsAfter 9).failures = false := by decide

theorem witness_ClearSendsClearThenHome :
    (failsAfter 20).phase = .idle ∧ (failsAfter 20).initialized = true ∧ (failsAfter 20).cfg = defaultConfig ∧
    transportOk (initTransports (failsAfter 20).initialized + 20) (failsAfter 20).failures = true ∧
    transportOk (initTransports (coldFailsAfter 157).initialized + 20) (coldFailsAfter 157).failures = true := by decide

theorem witness_ClearlineWritesOneSpacePerColumn :
    (failsAfter 170).phase = .idle ∧ (failsAfter 170).cfg.columns = 16 ∧ (failsAfter 170).initialized = true ∧
    transportOk (initTransports (failsAfter 170).initialized + 170) (failsAfter 170).failures = true ∧
    transportOk (initTransports (coldFailsAfter 307).initialized + 170) (coldFailsAfter 307).failures = true := by decide

theorem witness_ClearLeavesTheCurrentLineRecord :
    (failsAfter 40).phase = .idle ∧ (failsAfter 40).initialized = true ∧
    transportOk 40 (failsAfter 40).failures = true := by decide

theorem witness_WriteLineSendsSixteenCharacters :
    (writeLine defaultConfig .top ['H', 'i']).isSome = true ∧
    ∀ ch ∈ ['H', 'i'].take defaultConfig.columns, ch.toNat ≤ 0xFF :=
  ⟨by decide +kernel, by simp [defaultConfig]⟩

theorem witness_WriteTextMovesThenSendsEveryCharacter :
    (∀ ch ∈ ['X'], ch.toNat ≤ 0xFF) ∧ defaultConfig.columns ≤ 128 := ⟨by simp, by decide⟩

/-- The 17th character, which is not examined, does not encode. -/
theorem witness_LogWritesToTheRecordedLine :
    (∀ ch ∈ (List.replicate 16 '7' ++ ['€']).take defaultConfig.columns, ch.toNat ≤ 0xFF) ∧
    (∀ ch ∈ (['T'] ++ [':'] ++ ['7']).take defaultConfig.columns, ch.toNat ≤ 0xFF) :=
  ⟨by simp [defaultConfig], by simp [defaultConfig]⟩

theorem witness_UnencodableTextIssuesNoRequest :
    (∃ ch ∈ ['€'].take defaultConfig.columns, ch.toNat > 0xFF) ∧ (∃ ch ∈ ['Ā'], ch.toNat > 0xFF) ∧
    (∃ ch ∈ (['T'] ++ [':'] ++ ['€']).take defaultConfig.columns, ch.toNat > 0xFF) :=
  ⟨by simp [defaultConfig], by simp, by simp [defaultConfig]⟩

/-- A request word, and a fault, from a state that meets the invariant. -/
theorem witness_EveryStepKeepsTheInvariant :
    Inv ((coldFailsAfter 0).withFetchWord 16 0xB000) ∧
    step ((coldFailsAfter 0).withFetchWord 16 0xB000) = .next stuck :=
  ⟨⟨by decide, rfl, by decide, fun _ => rfl, fun h => (nomatch h), fun _ h => (nomatch h)⟩, by
    have h : stuck = nextOr (coldFailsAfter 0) (step ((coldFailsAfter 0).withFetchWord 16 0xB000)) := by
      rw [stuck, after]
    rw [h]
    exact eq_next_nextOr _ (by decide +kernel)⟩

theorem witness_ParametersAreFixedAndTheTraceOnlyGrows : step State.reset = .next State.reset := rfl

theorem witness_ReadsObserveTheLastWrite :
    coldReady.cfg.readModel = .latch ∧ coldReady.cfg.regDir ≠ coldReady.cfg.regLatch ∧
    exec .init coldReady = .next (execd .init coldReady) := ⟨rfl, by decide, exec_execd rfl⟩

/-- `busy` stands before its third statement, which is no primitive; the read before it was its first primitive. At its
end nothing is left. -/
theorem witness_RunningARequestIsTickingItToItsEnd :
    busy.phase = .busy ∧ busy.position =
      some { request := .nibble 0x5, expansion := nibbleBody defaultConfig 0x5 ++ [Micro.respond], next := 2 } ∧
    (nibbleBody defaultConfig 0x5 ++ [Micro.respond])[2]? = some (.setW 4 false) ∧
    busy.stepPosition = some (.nibble 0x5, 1) ∧
    (iterate State.tick 11 busy).phase = .busy ∧ (iterate State.tick 11 busy).remaining = [] := by decide +kernel

theorem witness_TheColdStartMachineNeverGoesBack :
    coldReady.phase = .idle ∧ coldReady.initialized = false ∧
    (iterate State.tick (40 + 1) (coldReady.accept .init (coldStart coldReady.cfg ++ [] ++ [Micro.respond]))).phase ≠
      .faulted ∧
    (iterate State.tick (40 + 1) (coldReady.accept (.clearline .bottom)
      (coldStart coldReady.cfg ++ clearlineBody coldReady.cfg .bottom ++ [Micro.respond]))).phase ≠ .faulted := by
  decide +kernel

theorem witness_CompletedRequestsAnswerOk :
    exec .clear ready = .next (execd .clear ready) ∧ (execd .clear ready).Safe :=
  ⟨exec_execd rfl, by unfold State.Safe; decide +kernel⟩

/-- CLEAR on an initialised block, and RDLATCH. -/
theorem witness_WhichRequestsWriteWhichExpanderRegister :
    exec .clear ready = .next (execd .clear ready) ∧ (ensuresInit .clear = true → ready.initialized = true) ∧
    exec .rdlatch ready = .next (execd .rdlatch ready) := ⟨exec_execd rfl, fun _ => rfl, exec_execd rfl⟩

/-- Four cold-start captures, from a high nibble stored. -/
theorem witness_ColdStartNibblesResynchroniseTheLcd :
    ({ Lcd.powerOn with iface := .fourLo 0x0 } : Lcd).clearing = false ∧
    ({ Lcd.powerOn with iface := .fourLo 0x0 } : Lcd).iface = .fourLo 0x0 ∧
    ({ rs := false, nib := 0x3, low := 0xF, ready := false } : Capture).nib = 0x3 ∧
    ({ rs := false, nib := 0x2, low := 0x0, ready := true } : Capture).nib = 0x2 := by decide

theorem witness_SendbyteDeliversExactlyTheByte :
    (failsAfter 10).phase = .idle ∧ transportOk 10 (failsAfter 10).failures = true ∧
    (failsAfter 10).cfg.wellFormed = true ∧
    (∀ q ∈ lcdPins (failsAfter 10).cfg.pins, (failsAfter 10).x.dir.getLsbD q.val = false) ∧
    (failsAfter 10).x.latch.getLsbD (failsAfter 10).cfg.pins.e.val = false := by decide

theorem witness_ColdStartLeavesTheLcdSynchronisedAndConfigured :
    (coldFailsAfter 137).phase = .idle ∧ (coldFailsAfter 137).initialized = false ∧
    transportOk 137 (coldFailsAfter 137).failures = true ∧ (coldFailsAfter 137).cfg.wellFormed = true ∧
    (coldFailsAfter 137).cfg.readModel = .latch ∧
    (∀ b ∈ coldBytes (coldFailsAfter 137).cfg, highNibble b ≠ 0x3#4) := by decide

theorem witness_ARunOfBytesIsDeliveredInOrder :
    (failsAfter 20).phase = .idle ∧
    transportOk (10 * [((0x01, false) : Byte × Bool), (0x38, true)].length) (failsAfter 20).failures = true ∧
    (failsAfter 20).cfg.wellFormed = true ∧
    (∀ q ∈ lcdPins (failsAfter 20).cfg.pins, (failsAfter 20).x.dir.getLsbD q.val = false) ∧
    (failsAfter 20).x.latch.getLsbD (failsAfter 20).cfg.pins.e.val = false ∧
    (∀ p ∈ [((0x01, false) : Byte × Bool), (0x38, true)], p.2 = true ∨ highNibble p.1 ≠ 0x3#4) := by
  refine ⟨rfl, by decide, by decide, by decide, by decide, fun p h => ?_⟩
  rcases List.mem_cons.1 h with rfl | h
  · exact .inr (by decide)
  · rcases List.mem_singleton.1 h with rfl
    exact .inl rfl

/-- The default block, and one with the wait that R266 asks for. -/
theorem witness_TheCommandAfterAClearIsExecutedOnlyAfterAWait :
    (failsAfter 20).phase = .idle ∧ (failsAfter 20).initialized = true ∧
    transportOk 20 (failsAfter 20).failures = true ∧ (failsAfter 20).cfg.wellFormed = true ∧
    (∀ q ∈ lcdPins (failsAfter 20).cfg.pins, (failsAfter 20).x.dir.getLsbD q.val = false) ∧
    (failsAfter 20).x.latch.getLsbD (failsAfter 20).cfg.pins.e.val = false ∧
    ({ Lcd.powerOn with iface := .fourHi } : Lcd).clearing = false ∧ (failsAfter 20).cfg.cmdClear = 0x01 ∧
    (failsAfter 20).cfg = defaultConfig ∧ { defaultConfig with tClearExtra := 1520 }.wellFormed = true ∧
    clearMicros ≤ { defaultConfig with tClearExtra := 1520 }.tClearExtra *
      { defaultConfig with tClearExtra := 1520 }.tUnit := by decide

end Sys2Proof.Tests
end

section
/-! PROOFS. O49: no step writes the parameters, and the trace only grows (00_scope.md R9, 10_state.md R31). `Grows` is
reflexive and transitive, so it is proved of one transport primitive, then of one statement, and carried from there
along a request's statements to a whole step. -/

namespace Sys2Proof.Machine

/-- From `s` to `t` the parameters are as they were, and events were only appended to the trace. -/
structure Grows (s t : State) : Prop where
  cfg   : t.cfg = s.cfg
  trace : s.trace <+: t.trace

theorem Grows.refl (s : State) : Grows s s := ⟨rfl, List.prefix_rfl⟩

theorem Grows.trans {s t u : State} (h : Grows s t) (k : Grows t u) : Grows s u :=
  ⟨k.cfg.trans h.cfg, h.trace.trans k.trace⟩

/-- A change that writes neither the parameters nor the trace. -/
theorem Grows.of_eq {s t : State} (hc : t.cfg = s.cfg) (ht : t.trace = s.trace) : Grows s t :=
  ⟨hc, ht ▸ List.prefix_rfl⟩

theorem Grows.log (s : State) (a : Action) (b : Bool) : Grows s (s.log a b) := ⟨rfl, List.prefix_append _ _⟩

/-- A transport primitive appends its one event, whether it fails or not (00_scope.md R14, 60_exceptions.md R224). -/
theorem Grows.transport (s : State) (a : Action) {f : State → State} (hf : ∀ t, Grows t (f t)) :
    Grows s (s.transport a f) := by
  have consumed : Grows s { s with failures := consumeDraw s.failures } := .of_eq rfl rfl
  obtain ⟨-, h⟩ | ⟨-, h⟩ := transport_cases s a f <;> rw [h]
  · exact (consumed.trans (.log _ a false)).trans (hf _)
  · exact (consumed.trans (.log _ a true)).trans (.of_eq rfl rfl)

theorem Grows.takeDraw (s : State) (r : Reg) : Grows s (s.takeDraw r) := by
  cases r
  · exact .refl s
  · rw [takeDraw_latch]; exact .of_eq rfl rfl

theorem Grows.memRead (s : State) (r : Reg) : Grows s (s.memRead r) :=
  (Grows.takeDraw s r).trans (.transport _ _ fun _ => .of_eq rfl rfl)

theorem Grows.memWrite (s : State) (r : Reg) (v : Byte) : Grows s (s.memWrite r v) :=
  .transport s _ fun _ => .of_eq rfl rfl

theorem Grows.memWriteBuf (s : State) (r : Reg) (v : Byte) : Grows s (s.memWriteBuf r v) :=
  .transport s _ fun _ => .of_eq rfl rfl

/-- The primitives append their event; the other statements write a block register only. -/
theorem Grows.doMicro (s : State) : ∀ m : Micro, Grows s (s.doMicro m)
  | .read r          => .memRead s r
  | .writeW r        => .memWrite s r s.w
  | .writeWBit r p l => .memWrite s r (setbit s.w p l)
  | .writeByte r b   => .memWrite s r b
  | .writeBuf r b    => .memWriteBuf s r b
  | .wait n          => .log s (.wait n) false
  | .setW _ _        => .of_eq rfl rfl
  | .enter _         => .refl s
  | .setInitialized  => .of_eq rfl rfl
  | .setLine _       => .of_eq rfl rfl
  | .respond         => .of_eq rfl rfl
  | .respondW        => .of_eq rfl rfl

theorem Grows.perform (s : State) (m : Micro) : Grows s (s.perform m) := by
  by_cases h : s.phase = .busy
  · have advanced : Grows s s.advance := .of_eq rfl rfl
    rw [perform_busy h]
    exact advanced.trans (.doMicro _ m)
  · rw [perform_not_busy h]; exact .refl s

theorem Grows.run (s : State) (ms : List Micro) : Grows s (s.run ms) := by
  induction ms generalizing s with
  | nil => exact .refl s
  | cons m ms ih => exact (Grows.perform s m).trans (ih _)

theorem Grows.complete (s : State) : Grows s s.complete := by
  by_cases h : s.phase = .busy
  · rw [complete_busy h]; exact .of_eq rfl rfl
  · rw [complete_not_busy h]; exact .refl s

theorem Grows.finish (s : State) : Grows s s.finish := (Grows.run s s.remaining).trans (.complete _)

theorem Grows.exec {i : Instr} {s t : State} (h : exec i s = .next t) : Grows s t := by
  obtain ⟨-, rfl⟩ := exec_next h
  have accepted : Grows s (s.accept i (expansionOf s i)) := .of_eq rfl rfl
  exact (accepted.trans (.run _ _)).trans (.complete _)

/-- A step runs statements, or takes a host move that writes neither the parameters nor the trace: a block reset
(70_reset_and_hazards.md R251, log 14), an illegal word answered, no move. -/
theorem Grows.step {s t : State} (h : step s = .next t) : Grows s t := by
  obtain ⟨rest, -, e⟩ | ⟨-, e⟩ | ⟨-, e⟩ | ⟨-, -, e⟩ | ⟨w, rest, r, -, -, -, e⟩ | ⟨w, rest, i, -, -, -, e⟩ :=
    step_cases s
  · cases e.symm.trans h; exact .of_eq rfl rfl
  · cases e.symm.trans h
  · cases e.symm.trans h; exact .finish s
  · cases e.symm.trans h; exact .refl s
  · cases e.symm.trans h; exact .of_eq rfl rfl
  · have moved : Grows s { s with host := rest } := .of_eq rfl rfl
    exact moved.trans (.exec (e.symm.trans h))

/-- Settles O49: the invariant `Grows` of every step. -/
theorem parametersAreFixedAndTheTraceOnlyGrows : Obligations.ParametersAreFixedAndTheTraceOnlyGrows := by
  intro s t h
  obtain ⟨hcfg, es, htrace⟩ := Grows.step h
  exact ⟨hcfg, es, htrace.symm⟩

end Sys2Proof.Machine
end

section
/-! PROOFS. The rules of one statement and of a run that the claims about the session and the expander share: what a
statement leaves unchanged by its kind, and how a request that was accepted ends (00_scope.md R16, 60_exceptions.md
R228). -/

namespace Sys2Proof.Machine

/-! ## One statement -/

/-- The register of the expander that a statement writes (20_memory.md R55, R56). -/
def Micro.target : Micro → Option Reg
  | .read _          => none
  | .writeW r        => some r
  | .writeWBit r _ _ => some r
  | .writeByte r _   => some r
  | .writeBuf r _    => some r
  | .wait _          => none
  | .setW _ _        => none
  | .enter _         => none
  | .setInitialized  => none
  | .setLine _       => none
  | .respond         => none
  | .respondW        => none

/-- `t` has, as `s` has it, whatever the statement `m` does not write of the session registers and the expander. -/
structure Spares (m : Micro) (s t : State) : Prop where
  initialized : m ≠ .setInitialized → t.initialized = s.initialized
  currentLine : (∀ l, m ≠ .setLine l) → t.currentLine = s.currentLine
  register    : ∀ r, m.target ≠ some r → t.x.get r = s.x.get r

/-- `t` is `s` after the effect of the statement `m`, in all but the working image and the response: what `m` does not
write is as it was, the request goes on or a fault ended it, and a primitive emitted its one event. -/
structure Did (m : Micro) (s t : State) : Prop extends Spares m s t where
  alive   : (t.phase = s.phase ∧ t.position = s.position) ∨ t.phase = .faulted
  emitted : t.trace.length = s.trace.length + if m.isPrimitive then 1 else 0

/-- A statement that is no primitive and writes one block register, whichever it is. -/
theorem Did.of_block {m : Micro} {s t : State} (hm : m.isPrimitive = false) (phase : t.phase = s.phase)
    (position : t.position = s.position) (trace : t.trace = s.trace) (x : t.x = s.x)
    (initialized : m ≠ .setInitialized → t.initialized = s.initialized)
    (currentLine : (∀ l, m ≠ .setLine l) → t.currentLine = s.currentLine) : Did m s t :=
  ⟨⟨initialized, currentLine, fun r _ => by rw [x]⟩, .inl ⟨phase, position⟩, by simp [hm, trace]⟩

/-- A transport primitive whose effect writes at most `W` and its target register (00_scope.md R14, 60_exceptions.md
R224). -/
theorem Did.transport {m : Micro} (s : State) (a : Action) {f : State → State} (hm : m.isPrimitive = true)
    (hf : ∀ t, f t = { t with w := (f t).w, x := (f t).x })
    (hx : ∀ (t : State) (r : Reg), m.target ≠ some r → (f t).x.get r = t.x.get r) :
    Did m s (s.transport a f) := by
  obtain ⟨-, h⟩ | ⟨-, h⟩ := transport_cases s a f <;> rw [h]
  · have hr := hx (({ s with failures := consumeDraw s.failures } : State).log a false)
    rw [hf] at hr ⊢
    exact ⟨⟨fun _ => rfl, fun _ => rfl, hr⟩, .inl ⟨rfl, rfl⟩, by simp [hm]⟩
  · exact ⟨⟨fun _ => rfl, fun _ => rfl, fun _ _ => rfl⟩, .inr rfl, by simp [hm]⟩

theorem Expander.get_set_other (x : Expander) (v : Byte) : ∀ {r q : Reg}, q ≠ r → (x.set r v).get q = x.get q
  | .dir, .dir, h | .latch, .latch, h => absurd rfl h
  | .dir, .latch, _ | .latch, .dir, _ => rfl

theorem Did.memRead (s : State) (r : Reg) : Did (.read r) s (s.memRead r) := by
  have read := Did.transport (m := .read r) (s.takeDraw r) (.rd (regId s.cfg r) (s.readValue r))
    (f := fun t => t.setWork (s.readValue r)) rfl (fun _ => rfl) (fun _ _ _ => rfl)
  have drawn : s.takeDraw r = { s with draws := (s.takeDraw r).draws } := by
    cases r
    · rfl
    · rw [takeDraw_latch]
  rw [drawn] at read
  rw [State.memRead, drawn]
  exact ⟨⟨read.initialized, read.currentLine, read.register⟩, read.alive, read.emitted⟩

/-- A register write, of either kind: it sets its target register only (20_memory.md R55, R56). -/
theorem Did.write {m : Micro} (s : State) (a : Action) {r : Reg} (v : Byte) (hm : m.isPrimitive = true)
    (hr : m.target = some r) : Did m s (s.transport a fun t => t.setReg r v) :=
  .transport s a hm (fun _ => rfl) fun t q hq =>
    Expander.get_set_other t.x v fun e => hq (by rw [hr, e])

/-- Every statement does what its kind says. -/
theorem Did.doMicro (s : State) : ∀ m : Micro, Did m s (s.doMicro m)
  | .read r          => .memRead s r
  | .writeW r        => .write s (.wr (regId s.cfg r) s.w) s.w rfl rfl
  | .writeWBit r p l => .write s (.wr (regId s.cfg r) (setbit s.w p l)) (setbit s.w p l) rfl rfl
  | .writeByte r b   => .write s (.wr (regId s.cfg r) b) b rfl rfl
  | .writeBuf r b    => .write s (.wb (regId s.cfg r) b) b rfl rfl
  | .wait n          => ⟨⟨fun _ => rfl, fun _ => rfl, fun _ _ => rfl⟩, .inl ⟨rfl, rfl⟩,
                          by simp [State.doMicro, State.waitFor, Micro.isPrimitive]⟩
  | .setW _ _        => .of_block rfl rfl rfl rfl rfl (fun _ => rfl) (fun _ => rfl)
  | .enter _         => .of_block rfl rfl rfl rfl rfl (fun _ => rfl) (fun _ => rfl)
  | .setInitialized  => .of_block rfl rfl rfl rfl rfl (fun h => absurd rfl h) (fun _ => rfl)
  | .setLine l       => .of_block rfl rfl rfl rfl rfl (fun _ => rfl) (fun h => absurd rfl (h l))
  | .respond         => .of_block rfl rfl rfl rfl rfl (fun _ => rfl) (fun _ => rfl)
  | .respondW        => .of_block rfl rfl rfl rfl rfl (fun _ => rfl) (fun _ => rfl)

/-- A statement performed moves the step position, unless it faults (10_state.md R27). -/
theorem perform_position {s : State} (hp : s.phase = .busy) (m : Micro) :
    ((s.perform m).phase = .busy ∧ (s.perform m).position = s.position.map Position.advance) ∨
      (s.perform m).phase = .faulted := by
  rw [perform_busy hp]
  exact (Did.doMicro s.advance m).alive.imp_left fun ⟨phase, position⟩ => ⟨phase.trans hp, position⟩

theorem perform_trace_length {s : State} (hp : s.phase = .busy) (m : Micro) :
    (s.perform m).trace.length = s.trace.length + if m.isPrimitive then 1 else 0 := by
  rw [perform_busy hp]; exact (Did.doMicro s.advance m).emitted

theorem Spares.perform (s : State) (m : Micro) : Spares m s (s.perform m) := by
  by_cases hp : s.phase = .busy
  · rw [perform_busy hp]
    have h := (Did.doMicro s.advance m).toSpares
    exact ⟨h.initialized, h.currentLine, h.register⟩
  · rw [perform_not_busy hp]
    exact ⟨fun _ => rfl, fun _ => rfl, fun _ _ => rfl⟩

/-! ## A run -/

/-- What no statement of a list changes, a run of the list does not change. -/
theorem run_keeps {α : Type} (g : State → α) {ms : List Micro} (h : ∀ m ∈ ms, ∀ s : State, g (s.perform m) = g s)
    (s : State) : g (s.run ms) = g s := by
  induction ms generalizing s with
  | nil => rfl
  | cons m ms ih =>
    rw [run_cons, ih fun n hn => h n (List.mem_cons_of_mem _ hn)]
    exact h m List.mem_cons_self s

theorem run_initialized_of_not_mem {ms : List Micro} (h : Micro.setInitialized ∉ ms) (s : State) :
    (s.run ms).initialized = s.initialized :=
  run_keeps State.initialized (fun m hm s => (Spares.perform s m).initialized fun e => h (e ▸ hm)) s

theorem run_currentLine_of_not_mem {ms : List Micro} (h : ∀ l, Micro.setLine l ∉ ms) (s : State) :
    (s.run ms).currentLine = s.currentLine :=
  run_keeps State.currentLine (fun m hm s => (Spares.perform s m).currentLine fun l e => h l (e ▸ hm)) s

theorem run_get_of_no_target {ms : List Micro} {r : Reg} (h : ∀ m ∈ ms, m.target ≠ some r) (s : State) :
    (s.run ms).x.get r = s.x.get r :=
  run_keeps (fun s => s.x.get r) (fun m hm s => (Spares.perform s m).register r (h m hm)) s

/-- The statements of a request never clear `S.initialized` (10_state.md R22). -/
theorem run_initialized_mono (ms : List Micro) {s : State} (h : s.initialized = true) :
    (s.run ms).initialized = true := by
  induction ms generalizing s with
  | nil => exact h
  | cons m ms ih =>
    refine ih ?_
    by_cases hm : m = .setInitialized
    · by_cases hp : s.phase = .busy
      · rw [hm, perform_busy hp]; rfl
      · rw [perform_not_busy hp]; exact h
    · rw [(Spares.perform s m).initialized hm]; exact h

/-- After a run the current line is the one before it, or one that a statement of the run recorded. -/
theorem run_currentLine_mem (s : State) (ms : List Micro) :
    (s.run ms).currentLine = s.currentLine ∨ Micro.setLine (s.run ms).currentLine ∈ ms := by
  induction ms generalizing s with
  | nil => exact .inl rfl
  | cons m ms ih =>
    rw [run_cons]
    obtain h | h := ih (s.perform m)
    · rw [h]
      by_cases hm : ∃ l, m = .setLine l
      · obtain ⟨l, rfl⟩ := hm
        by_cases hp : s.phase = .busy
        · rw [perform_busy hp]; exact .inr List.mem_cons_self
        · rw [perform_not_busy hp]; exact .inl rfl
      · exact .inl ((Spares.perform s m).currentLine fun l e => hm ⟨l, e⟩)
    · exact .inr (List.mem_cons_of_mem _ h)

/-- A run that starts BUSY stays BUSY or is ended by a fault (60_exceptions.md R228). -/
theorem run_phase {s : State} (hp : s.phase = .busy) (ms : List Micro) :
    (s.run ms).phase = .busy ∨ (s.run ms).phase = .faulted := by
  induction ms generalizing s with
  | nil => exact .inl hp
  | cons m ms ih =>
    obtain ⟨busy, -⟩ | faulted := perform_position hp m
    · exact ih busy
    · rw [run_cons, run_not_busy (by rw [faulted]; decide)]; exact .inr faulted

/-- A run of two lists that ends BUSY was BUSY between them. -/
theorem busy_of_run_append {s : State} {ms ns : List Micro} (h : (s.run (ms ++ ns)).phase = .busy) :
    (s.run ms).phase = .busy := by
  by_contra hm
  rw [run_append, run_not_busy hm] at h
  exact hm h

/-! ## A request -/

@[simp] theorem complete_initialized (s : State) : s.complete.initialized = s.initialized := by
  unfold State.complete; split <;> rfl

@[simp] theorem complete_currentLine (s : State) : s.complete.currentLine = s.currentLine := by
  unfold State.complete; split <;> rfl

@[simp] theorem complete_x (s : State) : s.complete.x = s.x := by
  unfold State.complete; split <;> rfl

@[simp] theorem complete_resp (s : State) : s.complete.resp = s.resp := by
  unfold State.complete; split <;> rfl

/-- The two ends of a request: its statements ran and it completed, or a fault ended it. -/
theorem complete_accept_run (s : State) (i : Instr) (ms : List Micro) :
    (((s.accept i ms).run ms).phase = .busy ∧ ((s.accept i ms).run ms).complete.phase = .idle) ∨
    (((s.accept i ms).run ms).phase = .faulted ∧ ((s.accept i ms).run ms).complete.phase = .faulted) := by
  obtain h | h := run_phase (s := s.accept i ms) rfl ms
  · exact .inl ⟨h, by rw [complete_busy h]⟩
  · exact .inr ⟨h, by rw [complete_not_busy (by rw [h]; decide)]; exact h⟩

end Sys2Proof.Machine
end

section
/-! PROOFS. O52: running a request is ticking it to its end, and a tick moves the step position of 10_state.md R27 past
one statement. A tick that executes a statement takes it off `State.remaining`, so the run is followed by induction on
the statements that remain. -/

namespace Sys2Proof.Machine

/-! ## One tick -/

theorem tick_of_remaining_cons {s : State} {m : Micro} {ms : List Micro} (hp : s.phase = .busy)
    (h : s.remaining = m :: ms) : s.tick = s.perform m := by
  simp [State.tick, hp, h]

theorem tick_of_remaining_nil {s : State} (hp : s.phase = .busy) (h : s.remaining = []) : s.tick = s.complete := by
  simp [State.tick, hp, h]

theorem tick_not_busy {s : State} (hp : s.phase ≠ .busy) : s.tick = s := by
  unfold State.tick; split <;> simp_all

theorem iterate_tick_not_busy {s : State} (hp : s.phase ≠ .busy) (n : Nat) : iterate State.tick n s = s := by
  induction n with
  | zero => rfl
  | succ n ih => rw [iterate, tick_not_busy hp, ih]

theorem remaining_of_position {s : State} {p : Position} (h : s.position = some p) :
    s.remaining = p.expansion.drop p.next := by
  simp [State.remaining, h]

/-- The statements that remain are the rest of the list, once the position moved past one. -/
theorem remaining_of_position_advance {s t : State} (h : t.position = s.position.map Position.advance) :
    t.remaining = s.remaining.tail := by
  unfold State.remaining
  cases hs : s.position <;> simp [h, hs, Position.advance]

/-! ## The run as ticks -/

/-- Running the statements that remain, then completing, is one tick for each of them and one more. -/
theorem complete_run_remaining {s : State} {ms : List Micro} (hp : s.phase = .busy) (h : s.remaining = ms) :
    (s.run ms).complete = iterate State.tick (ms.length + 1) s := by
  induction ms generalizing s with
  | nil => exact (tick_of_remaining_nil hp h).symm
  | cons m ms ih =>
    rw [run_cons, List.length_cons, iterate, tick_of_remaining_cons hp h]
    obtain ⟨busy, position⟩ | faulted := perform_position hp m
    · exact ih busy (by rw [remaining_of_position_advance position, h, List.tail_cons])
    · have ended : (s.perform m).phase ≠ .busy := by rw [faulted]; decide
      rw [run_not_busy ended, complete_not_busy ended, iterate_tick_not_busy ended]

/-! ## The step position -/

/-- The statement at the position, when it is a primitive, is the primitive that the index names (10_state.md R27). -/
theorem Position.primitives_index {p : Position} {m : Micro} (h : p.expansion[p.next]? = some m)
    (hm : m.isPrimitive = true) : p.primitives[p.index]? = some m := by
  obtain ⟨hlt, rfl⟩ := List.getElem?_eq_some_iff.mp h
  have cut : p.primitives = (p.expansion.take p.next).filter Micro.isPrimitive ++
      p.expansion[p.next] :: (p.expansion.drop (p.next + 1)).filter Micro.isPrimitive := by
    rw [Position.primitives, ← List.filter_cons_of_pos hm, ← List.filter_append, List.getElem_cons_drop,
      List.take_append_drop]
  rw [cut, Position.index, List.countP_eq_length_filter, List.getElem?_append_right le_rfl, Nat.sub_self,
    List.getElem?_cons_zero]

/-- Settles O52: by induction on the statements that remain, and by what one statement does. -/
theorem runningARequestIsTickingItToItsEnd : Obligations.RunningARequestIsTickingItToItsEnd := by
  refine ⟨fun s hp => complete_run_remaining hp rfl, fun s p m hp hpos hm => ?_, fun s p hp hpos hend => ?_⟩
  · obtain ⟨hlt, at_next⟩ := List.getElem?_eq_some_iff.mp hm
    have ticked : s.tick = s.perform m := tick_of_remaining_cons hp
      (by rw [remaining_of_position hpos, List.drop_eq_getElem_cons hlt, at_next])
    rw [ticked]
    refine ⟨Position.primitives_index hm, perform_trace_length hp m, ?_⟩
    refine (perform_position hp m).imp_left fun ⟨busy, position⟩ => ?_
    have moved : (s.perform m).position = some p.advance := by rw [position, hpos]; rfl
    exact ⟨busy, moved, by rw [← Position.index_advance hm, State.stepPosition, moved]; rfl⟩
  · have ticked : s.tick = s.complete :=
      tick_of_remaining_nil hp (by rw [remaining_of_position hpos, List.drop_eq_nil_of_le hend])
    rw [ticked, complete_busy hp]
    exact ⟨rfl, rfl, rfl⟩

end Sys2Proof.Machine
end

section
/-! PROOFS. The footprint of a request: which registers of the expander and of the session its statements may write. It
is read off the expansion once, and bounds what any run of the request changes, faults included. -/

namespace Sys2Proof.Machine

/-- What a list of statements may write: registers of the expander, `S.initialized`, and one line to `S.currentLine`. -/
structure Footprint where
  registers   : List Reg
  initialized : Bool
  line        : Option Line

/-- The statement writes nothing outside the footprint; the working image and the response are free. -/
def Micro.within (f : Footprint) : Micro → Bool
  | .writeW r        => f.registers.contains r
  | .writeWBit r _ _ => f.registers.contains r
  | .writeByte r _   => f.registers.contains r
  | .writeBuf r _    => f.registers.contains r
  | .setInitialized  => f.initialized
  | .setLine l       => f.line == some l
  | .read _          => true
  | .wait _          => true
  | .setW _ _        => true
  | .enter _         => true
  | .respond         => true
  | .respondW        => true

/-- Every statement of the list stays within the footprint. -/
def Within (f : Footprint) (ms : List Micro) : Prop := ∀ m ∈ ms, m.within f = true

variable {f : Footprint} {ms ns : List Micro}

@[simp] theorem Within.nil : Within f [] := fun _ h => nomatch h

@[simp] theorem within_cons {m : Micro} : Within f (m :: ms) ↔ m.within f = true ∧ Within f ms :=
  List.forall_mem_cons

@[simp] theorem within_append : Within f (ms ++ ns) ↔ Within f ms ∧ Within f ns := List.forall_mem_append

/-! ## What a footprint rules out -/

theorem Within.target_ne (h : Within f ms) {r : Reg} (hr : r ∉ f.registers) : ∀ m ∈ ms, m.target ≠ some r := by
  intro m hm e
  have hw := h m hm
  cases m <;> simp_all [Micro.target, Micro.within]

theorem Within.setInitialized_not_mem (h : Within f ms) (hf : f.initialized = false) : Micro.setInitialized ∉ ms :=
  fun hm => by simpa [Micro.within, hf] using h _ hm

theorem Within.line_eq (h : Within f ms) {l : Line} (hl : Micro.setLine l ∈ ms) : f.line = some l := by
  simpa [Micro.within] using h _ hl

theorem Within.setLine_not_mem (h : Within f ms) (hf : f.line = none) (l : Line) : Micro.setLine l ∉ ms :=
  fun hm => by simpa [hf] using h.line_eq hm

/-! ## The bodies -/

theorem Within.rmwBit {r : Reg} (hr : r ∈ f.registers) (p : Nat) (l : Bool) : Within f (rmwBit r p l) := by
  unfold Machine.rmwBit
  split <;> simp [Micro.within, hr]

section
variable (hf : Reg.latch ∈ f.registers) (c : Config)
include hf

theorem Within.nibbleBody (n : Nibble) : Within f (nibbleBody c n) := by
  simp [Machine.nibbleBody, placeW, Micro.within, hf]

theorem Within.nibinitBody (n : Nibble) : Within f (nibinitBody c n) := by
  simp [Machine.nibinitBody, latchBit, Within.rmwBit hf, Micro.within]

theorem Within.sendByteBody (b : Byte) (m : Bool) : Within f (sendByteBody c b m) := by
  simp [Machine.sendByteBody, latchBit, Within.rmwBit hf, Within.nibbleBody hf]

omit hf in
theorem Within.clearExtra : Within f (clearExtra c) := by
  unfold Machine.clearExtra
  split <;> simp [Micro.within]

theorem Within.clearBody : Within f (clearBody c) := by
  simp [Machine.clearBody, Within.sendByteBody hf, Within.clearExtra]

theorem Within.spaces (n : Nat) : Within f (spaces c n) := by
  induction n with
  | zero => exact .nil
  | succ n ih => exact within_append.mpr ⟨.sendByteBody hf c _ _, ih⟩

theorem Within.lineselBody {l : Line} (hl : f.line = some l) : Within f (lineselBody c l) := by
  simp [Machine.lineselBody, Within.sendByteBody hf, Micro.within, hl]

theorem Within.clearlineBody {l : Line} (hl : f.line = some l) : Within f (clearlineBody c l) := by
  simp [Machine.clearlineBody, Within.lineselBody hf c hl, Within.spaces hf]

/-- The cold start writes both registers and `S.initialized` (42_controller.md R174). -/
theorem Within.coldStart (hd : Reg.dir ∈ f.registers) (hi : f.initialized = true) : Within f (coldStart c) := by
  simp [Machine.coldStart, coldUnpowered, coldForced8bit, coldSwitchTo4bit, coldConfigured, latchBit, dirBit,
    Within.rmwBit hf, Within.rmwBit hd, Within.nibinitBody hf, Within.sendByteBody hf, Within.clearExtra,
    Micro.within, hd, hi]

end

/-! ## The requests -/

/-- The registers that a request beginning with the ensure-initialised check may write (42_controller.md R176). -/
def publicRegisters (initialized : Bool) : List Reg := if initialized then [.latch] else [.dir, .latch]

/-- The footprint of a request (10_state.md R22, R23, R29, R30). -/
def footprint (s : State) : Instr → Footprint
  | .setdir _      => { registers := [.dir], initialized := false, line := none }
  | .pinmode _ _   => { registers := [.dir], initialized := false, line := none }
  | .rdlatch       => { registers := [], initialized := false, line := none }
  | .wrpin _ _     => { registers := [.latch], initialized := false, line := none }
  | .wrlatch _     => { registers := [.latch], initialized := false, line := none }
  | .nibble _      => { registers := [.latch], initialized := false, line := none }
  | .nibinit _     => { registers := [.latch], initialized := false, line := none }
  | .sendbyte _ _  => { registers := [.latch], initialized := false, line := none }
  | .sendcmd _     => { registers := [.latch], initialized := false, line := none }
  | .sendchar _    => { registers := [.latch], initialized := false, line := none }
  | .setcursor _ _ => { registers := [.latch], initialized := false, line := none }
  | .linesel l     => { registers := [.latch], initialized := false, line := some l }
  | .lineselCur    => { registers := [.latch], initialized := false, line := some s.currentLine }
  | .init          => { registers := publicRegisters s.initialized, initialized := true, line := none }
  | .clear         => { registers := publicRegisters s.initialized, initialized := true, line := none }
  | .clearline l   => { registers := publicRegisters s.initialized, initialized := true, line := some l }

theorem footprint_initialized (s : State) (i : Instr) : (footprint s i).initialized = ensuresInit i := by
  cases i <;> rfl

theorem latch_mem_publicRegisters (b : Bool) : Reg.latch ∈ publicRegisters b := by cases b <;> decide

/-- The ensure-initialised check has the footprint of the cold start, and none when there is nothing to do
(42_controller.md R176). -/
theorem Within.ensureInitialized {s : State} (hr : f.registers = publicRegisters s.initialized)
    (hi : f.initialized = true) : Within f (ensureInitialized s) := by
  unfold Machine.ensureInitialized
  split
  · exact .nil
  · next h => exact .coldStart (hr ▸ latch_mem_publicRegisters _) _ (by simp [hr, publicRegisters, h]) hi

/-- No request writes outside its footprint. -/
theorem within_footprint (s : State) (i : Instr) : Within (footprint s i) (expansionOf s i) := by
  have latch : ∀ {l : Option Line}, Reg.latch ∈ (Footprint.mk [.latch] false l).registers := by simp
  have ready : ∀ {l : Option Line},
      Reg.latch ∈ (Footprint.mk (publicRegisters s.initialized) true l).registers := latch_mem_publicRegisters _
  have answered : ∀ {f : Footprint} {ms : List Micro}, Within f ms → Within f (ms ++ [Micro.respond]) :=
    fun h => within_append.mpr ⟨h, by simp [Micro.within]⟩
  cases i with
  | setdir b      => simp [expansionOf, footprint, Micro.within]
  | pinmode p l   => exact answered (.rmwBit (by simp [footprint]) p l)
  | wrpin p l     => exact answered (.rmwBit latch p l)
  | rdlatch       => simp [expansionOf, Micro.within]
  | wrlatch b     => simp [expansionOf, footprint, Micro.within]
  | nibble n      => exact answered (.nibbleBody latch s.cfg n)
  | nibinit n     => exact answered (.nibinitBody latch s.cfg n)
  | sendbyte b m  => exact answered (.sendByteBody latch s.cfg b m)
  | sendcmd b     => exact answered (.sendByteBody latch s.cfg b false)
  | sendchar b    => exact answered (.sendByteBody latch s.cfg b true)
  | init          => exact answered (.ensureInitialized rfl rfl)
  | setcursor r c => exact answered (.sendByteBody latch s.cfg _ false)
  | linesel l     => exact answered (.lineselBody latch s.cfg rfl)
  | lineselCur    => exact answered (.lineselBody latch s.cfg rfl)
  | clear         => exact answered (within_append.mpr ⟨.ensureInitialized rfl rfl, .clearBody ready s.cfg⟩)
  | clearline l   => exact answered (within_append.mpr ⟨.ensureInitialized rfl rfl, .clearlineBody ready s.cfg rfl⟩)

/-! ## What an executed request may change -/

variable {i : Instr} {s t : State}

/-- A register outside the footprint is left, whether the request completes or faults. -/
theorem exec_get_of_not_mem (h : exec i s = .next t) {r : Reg} (hr : r ∉ (footprint s i).registers) :
    t.x.get r = s.x.get r := by
  obtain ⟨-, rfl⟩ := exec_next h
  rw [complete_x, run_get_of_no_target ((within_footprint s i).target_ne hr), State.accept_x]

theorem exec_initialized_of_not_ensuresInit (h : exec i s = .next t) (hi : ensuresInit i = false) :
    t.initialized = s.initialized := by
  obtain ⟨-, rfl⟩ := exec_next h
  have absent := (within_footprint s i).setInitialized_not_mem ((footprint_initialized s i).trans hi)
  rw [complete_initialized, run_initialized_of_not_mem absent, State.accept_initialized]

theorem exec_initialized_mono (h : exec i s = .next t) (hs : s.initialized = true) : t.initialized = true := by
  obtain ⟨-, rfl⟩ := exec_next h
  rw [complete_initialized]
  exact run_initialized_mono _ hs

/-- The current line after a request is the one before it, or the one of the request's footprint. -/
theorem exec_currentLine (h : exec i s = .next t) :
    t.currentLine = s.currentLine ∨ (footprint s i).line = some t.currentLine := by
  obtain ⟨-, rfl⟩ := exec_next h
  rw [complete_currentLine]
  exact (run_currentLine_mem (s.accept i (expansionOf s i)) _).imp_right (within_footprint s i).line_eq

end Sys2Proof.Machine
end

section
/-! PROOFS. O34, O35 and O55: who writes the session registers (10_state.md R22, R23) and the expander's two (R29, R30).
The footprint of a request settles what it may write; for the line that LINESEL and CLEARLINE record, the run is cut at
the statement that records it. -/

namespace Sys2Proof.Machine

/-! ## The session flag -/

/-- Settles O34: only a cold start's statements set the flag, and no statement clears it. -/
theorem initializedIsMonotone : Obligations.InitializedIsMonotone := by
  refine ⟨fun i s t h => ⟨exec_initialized_mono h, fun changed => ?_⟩, fun s t noReset h hs => ?_⟩
  · by_contra hi
    exact changed (exec_initialized_of_not_ensuresInit h (Bool.eq_false_iff.mpr hi))
  · obtain ⟨rest, hh, -⟩ | ⟨-, e⟩ | ⟨-, e⟩ | ⟨-, -, e⟩ | ⟨w, rest, r, -, -, -, e⟩ | ⟨w, rest, i, -, -, -, e⟩ :=
      step_cases s
    · exact absurd hh (noReset rest)
    · cases e.symm.trans h
    · cases e.symm.trans h
      rw [State.finish, complete_initialized]
      exact run_initialized_mono _ hs
    · cases e.symm.trans h; exact hs
    · cases e.symm.trans h; exact hs
    · exact exec_initialized_mono (e.symm.trans h) hs

/-! ## The current line -/

/-- A run that reaches its end has recorded the line of its last `setLine`. -/
theorem run_currentLine_of_busy {s : State} {ms ns : List Micro} {l : Line}
    (h : (s.run (ms ++ Micro.setLine l :: ns)).phase = .busy) (hn : ∀ k, Micro.setLine k ∉ ns) :
    (s.run (ms ++ Micro.setLine l :: ns)).currentLine = l := by
  have reached : (s.run ms).phase = .busy := busy_of_run_append h
  rw [run_append, run_cons, run_currentLine_of_not_mem hn, perform_busy reached]
  rfl

/-- A run ended by a fault before its only `setLine` leaves the line (43_host_operations.md R202). -/
theorem run_currentLine_of_faulted {s : State} {ms : List Micro} {l : Line}
    (h : (s.run (ms ++ [Micro.setLine l, .respond])).phase = .faulted) (hm : ∀ k, Micro.setLine k ∉ ms) :
    (s.run (ms ++ [Micro.setLine l, .respond])).currentLine = s.currentLine := by
  have ended : (s.run ms).phase ≠ .busy := by
    intro reached
    rw [run_append, run_cons, run_cons, run_nil, perform_busy reached, perform_busy (by exact reached)] at h
    cases reached.symm.trans h
  rw [run_append, run_not_busy ended, run_currentLine_of_not_mem hm]

/-- Bodies that write no line stay within this footprint. -/
def lineless : Footprint := { registers := [.dir, .latch], initialized := true, line := none }

/-- LINESEL records its line at its end (42_controller.md R181). -/
theorem expansionOf_linesel (s : State) (l : Line) :
    ∃ ms, expansionOf s (.linesel l) = ms ++ [Micro.setLine l, .respond] ∧ ∀ k, Micro.setLine k ∉ ms :=
  ⟨_, List.append_assoc _ _ _, Within.setLine_not_mem (f := lineless) (.sendByteBody (by decide) _ _ _) rfl⟩

/-- CLEARLINE records its line once, before its spaces (43_host_operations.md R202). -/
theorem expansionOf_clearline (s : State) (l : Line) :
    ∃ ms ns, expansionOf s (.clearline l) = ms ++ Micro.setLine l :: ns ∧ ∀ k, Micro.setLine k ∉ ns :=
  ⟨ensureInitialized s ++ sendByteBody s.cfg (cursorByte s.cfg (lineRow l) 0) false,
    spaces s.cfg s.cfg.columns ++ [Micro.respond], by simp [expansionOf, clearlineBody, lineselBody],
    Within.setLine_not_mem (f := lineless)
      (within_append.mpr ⟨.spaces (by decide) _ _, by simp [Micro.within]⟩) rfl⟩

theorem currentLine_after_linesel {s t : State} {l : Line} (h : exec (.linesel l) s = .next t) :
    t.currentLine = if t.phase = .idle then l else s.currentLine := by
  obtain ⟨-, rfl⟩ := exec_next h
  obtain ⟨ms, e, hm⟩ := expansionOf_linesel s l
  rw [e, complete_currentLine]
  obtain ⟨ran, idle⟩ | ⟨ran, faulted⟩ := complete_accept_run s (.linesel l) (ms ++ [Micro.setLine l, .respond])
  · rw [if_pos idle]; exact run_currentLine_of_busy ran (by simp)
  · rw [if_neg (by rw [faulted]; decide)]; exact run_currentLine_of_faulted ran hm

theorem currentLine_after_clearline {s t : State} {l : Line} (h : exec (.clearline l) s = .next t)
    (completed : t.phase = .idle) : t.currentLine = l := by
  obtain ⟨-, rfl⟩ := exec_next h
  obtain ⟨ms, ns, e, hn⟩ := expansionOf_clearline s l
  rw [e] at completed ⊢
  obtain ⟨ran, -⟩ | ⟨-, faulted⟩ := complete_accept_run s (.clearline l) (ms ++ Micro.setLine l :: ns)
  · rw [complete_currentLine]; exact run_currentLine_of_busy ran hn
  · rw [faulted] at completed; cases completed

/-- Every request but LINESEL and CLEARLINE has no line to record, or records the one that stands (LINESEL cur). -/
theorem footprint_line {s : State} {i : Instr} {l : Line} (h : (footprint s i).line = some l)
    (hsel : ∀ k, i ≠ .linesel k) (hclear : ∀ k, i ≠ .clearline k) : l = s.currentLine := by
  cases i with
  | linesel k   => exact absurd rfl (hsel k)
  | clearline k => exact absurd rfl (hclear k)
  | lineselCur  => exact (Option.some.inj h).symm
  | _           => cases h

/-- Settles O35: by the footprint, and for a completed LINESEL or CLEARLINE by the statement that records the line. -/
theorem onlyLineOperationsWriteTheCurrentLine : Obligations.OnlyLineOperationsWriteTheCurrentLine := by
  intro i s t h
  refine ⟨fun hsel hclear => ?_, ?_, ?_⟩
  · exact (exec_currentLine h).elim id fun recorded => footprint_line recorded hsel hclear
  · rintro l rfl
    exact currentLine_after_linesel h
  · rintro l rfl
    exact ⟨currentLine_after_clearline h,
      (exec_currentLine h).symm.imp_left fun recorded => (Option.some.inj recorded).symm⟩

/-! ## The registers of the expander -/

theorem dir_not_mem_footprint {s : State} {i : Instr} (hset : ∀ b, i ≠ .setdir b) (hpin : ∀ p l, i ≠ .pinmode p l)
    (hready : ensuresInit i = true → s.initialized = true) : Reg.dir ∉ (footprint s i).registers := by
  cases i with
  | setdir b    => exact absurd rfl (hset b)
  | pinmode p l => exact absurd rfl (hpin p l)
  | init        => simp [footprint, publicRegisters, hready rfl]
  | clear       => simp [footprint, publicRegisters, hready rfl]
  | clearline l => simp [footprint, publicRegisters, hready rfl]
  | _           => simp [footprint]

/-- Settles O55: by the footprint of each request. -/
theorem whichRequestsWriteWhichExpanderRegister : Obligations.WhichRequestsWriteWhichExpanderRegister := by
  refine fun i s t h => ⟨fun hset hpin hready => ?_, fun hi => ?_⟩
  · exact exec_get_of_not_mem h (dir_not_mem_footprint hset hpin hready)
  · have outside : Reg.latch ∉ (footprint s i).registers := by
      obtain rfl | ⟨b, rfl⟩ | ⟨p, l, rfl⟩ := hi <;> simp [footprint]
    exact exec_get_of_not_mem h outside

end Sys2Proof.Machine
end

section
/-! PROOFS. O54: a request that completes answers OK (10_state.md R28, 30_encoding.md R85), since its last statement is
the answer and a run that reaches its end has executed it. -/

namespace Sys2Proof.Machine

theorem respStatus_response (c : Cause) (d : Byte) : respStatus (response c d) = c.code :=
  BitVec.extractLsb'_append_eq_left

theorem expansionOf_respond (s : State) {i : Instr} (h : i ≠ .rdlatch) :
    ∃ body, expansionOf s i = body ++ [Micro.respond] := by
  cases i with
  | rdlatch => exact absurd rfl h
  | _       => exact ⟨_, rfl⟩

/-- A request that does not end in a fault was BUSY before its last statement, and completed after it. -/
theorem exec_safe_last {i : Instr} {s t : State} (h : exec i s = .next t) (safe : t.Safe) {body : List Micro}
    {m : Micro} (e : expansionOf s i = body ++ [m]) : ∃ u : State, u.phase = .busy ∧ t = (u.run [m]).complete := by
  obtain ⟨-, rfl⟩ := exec_next h
  rw [e] at safe ⊢
  obtain ⟨ran, -⟩ | ⟨-, faulted⟩ := complete_accept_run s i (body ++ [m])
  · exact ⟨_, busy_of_run_append ran, by rw [run_append]⟩
  · exact absurd faulted safe

theorem resp_of_respond {i : Instr} {s t : State} (h : exec i s = .next t) (safe : t.Safe) (hi : i ≠ .rdlatch) :
    t.resp = response .ok 0 := by
  obtain ⟨body, e⟩ := expansionOf_respond s hi
  obtain ⟨u, busy, rfl⟩ := exec_safe_last h safe e
  rw [complete_resp, run_respond busy]

/-- RDLATCH answers OK with the byte it read (40_expander.md R125). -/
theorem resp_of_rdlatch {s t : State} (h : exec .rdlatch s = .next t) (safe : t.Safe) :
    ∃ d, t.resp = response .ok d := by
  obtain ⟨u, busy, rfl⟩ := exec_safe_last h safe (body := [.read .latch]) rfl
  exact ⟨u.w, by rw [complete_resp, run_respondW busy]⟩

/-- Settles O54: by the last statement of the expansion. -/
theorem completedRequestsAnswerOk : Obligations.CompletedRequestsAnswerOk := by
  refine fun i s t h safe => ⟨?_, resp_of_respond h safe⟩
  have ok : ∃ d, t.resp = response .ok d := by
    by_cases hi : i = .rdlatch
    · subst hi; exact resp_of_rdlatch h safe
    · exact ⟨0, resp_of_respond h safe hi⟩
  obtain ⟨d, hd⟩ := ok
  rw [hd, respStatus_response]
  rfl

end Sys2Proof.Machine
end

section
/-! PROOFS. O51: `W` carries nothing from one request to the next (10_state.md R24). Two runs that differ in `W` alone
still differ in `W` alone after a statement that does not use it, and not at all after a read that answers; every
expansion reads before it uses `W`. -/

namespace Sys2Proof.Machine

/-- The statement neither reads nor writes the working image. -/
def Micro.ignoresW : Micro → Bool
  | .read _          => false
  | .writeW _        => false
  | .writeWBit _ _ _ => false
  | .setW _ _        => false
  | .respondW        => false
  | .writeByte _ _   => true
  | .writeBuf _ _    => true
  | .wait _          => true
  | .enter _         => true
  | .setInitialized  => true
  | .setLine _       => true
  | .respond         => true

/-- The statements do not use the working image before a read sets it. -/
inductive ReadsFirst : List Micro → Prop
  | nil : ReadsFirst []
  | read (r : Reg) (ms : List Micro) : ReadsFirst (.read r :: ms)
  | skip {m : Micro} {ms : List Micro} : m.ignoresW = true → ReadsFirst ms → ReadsFirst (m :: ms)

theorem ReadsFirst.append {ms ns : List Micro} (h : ReadsFirst ms) (k : ReadsFirst ns) : ReadsFirst (ms ++ ns) := by
  induction h with
  | nil        => exact k
  | read r ms  => exact .read r _
  | skip hm _ ih => exact .skip hm ih

/-! ## Two runs that differ in the working image -/

theorem transport_setWork (s : State) (b : Byte) (a : Action) {f : State → State}
    (hf : ∀ t, f (t.setWork b) = (f t).setWork b) : (s.setWork b).transport a f = (s.transport a f).setWork b := by
  obtain ⟨answers, e⟩ | ⟨fails, e⟩ := transport_cases s a f <;> rw [e]
  · rw [transport_ok (by exact answers)]; exact hf (({ s with failures := consumeDraw s.failures } : State).log a false)
  · rw [transport_fail (by exact fails)]; rfl

theorem doMicro_setWork {m : Micro} (h : m.ignoresW = true) (s : State) (b : Byte) :
    (s.setWork b).doMicro m = (s.doMicro m).setWork b := by
  cases m with
  | read r          => cases h
  | writeW r        => cases h
  | writeWBit r p l => cases h
  | setW p l        => cases h
  | respondW        => cases h
  | writeByte r v   => exact transport_setWork s b _ (f := fun t => t.setReg r v) fun _ => rfl
  | writeBuf r v    => exact transport_setWork s b _ (f := fun t => t.setReg r v) fun _ => rfl
  | _               => rfl

theorem perform_setWork {m : Micro} (h : m.ignoresW = true) (s : State) (b : Byte) :
    (s.setWork b).perform m = (s.perform m).setWork b := by
  by_cases hp : s.phase = .busy
  · rw [perform_busy hp, perform_busy (by exact hp)]; exact doMicro_setWork h s.advance b
  · rw [perform_not_busy hp, perform_not_busy (by exact hp)]

theorem takeDraw_setWork (s : State) (b : Byte) (r : Reg) : (s.setWork b).takeDraw r = (s.takeDraw r).setWork b := by
  cases r
  · rfl
  · simp only [takeDraw_latch]; rfl

/-- A read sets the working image, whatever it was, or fails and ends the request (60_exceptions.md R224). -/
theorem memRead_setWork (s : State) (b : Byte) (r : Reg) :
    (s.setWork b).memRead r = s.memRead r ∨
      ((s.memRead r).phase = .faulted ∧ (s.setWork b).memRead r = (s.memRead r).setWork b) := by
  unfold State.memRead
  rw [takeDraw_setWork]
  cases h : nextFails (s.takeDraw r).failures
  · rw [transport_ok h, transport_ok (by exact h)]
    cases r <;> exact .inl rfl
  · rw [transport_fail h, transport_fail (by exact h)]
    cases r <;> exact .inr ⟨rfl, rfl⟩

theorem perform_read_setWork (s : State) (b : Byte) (r : Reg) :
    (s.setWork b).perform (.read r) = s.perform (.read r) ∨
      ((s.perform (.read r)).phase ≠ .busy ∧
        (s.setWork b).perform (.read r) = (s.perform (.read r)).setWork b) := by
  by_cases hp : s.phase = .busy
  · rw [perform_busy hp, perform_busy (by exact hp)]
    exact (memRead_setWork s.advance b r).imp_right fun ⟨faulted, e⟩ =>
      ⟨fun busy => Phase.noConfusion (faulted.symm.trans busy), e⟩
  · rw [perform_not_busy hp, perform_not_busy (by exact hp)]
    exact .inr ⟨hp, rfl⟩

/-- Over statements that read first, a change of the working image changes at most the working image. -/
theorem ReadsFirst.run_setWork {ms : List Micro} (h : ReadsFirst ms) (s : State) (b : Byte) :
    ∃ c, (s.setWork b).run ms = (s.run ms).setWork c := by
  induction h generalizing s with
  | nil => exact ⟨b, rfl⟩
  | read r ms =>
    rw [run_cons, run_cons]
    obtain e | ⟨ended, e⟩ := perform_read_setWork s b r
    · exact ⟨((s.perform (.read r)).run ms).w, by rw [e]; rfl⟩
    · exact ⟨b, by rw [e, run_not_busy ended, run_not_busy (by exact ended)]⟩
  | skip hm _ ih =>
    rw [run_cons, run_cons, perform_setWork hm]
    exact ih _

/-! ## The expansions read first -/

theorem ReadsFirst.rmwBit (r : Reg) (p : Nat) (l : Bool) : ReadsFirst (rmwBit r p l) := by
  unfold Machine.rmwBit
  split
  · exact .nil
  · exact .read r _

/-- A pin of `PIN_MAP` is in range, so its pin-level change does read (00_scope.md R9, 40_expander.md R122). -/
theorem rmwBit_pin (r : Reg) (q : Fin 8) (l : Bool) : rmwBit r q l = [.read r, .setW q l, .writeW r] :=
  if_neg (pin_not_above_seven q)

theorem ReadsFirst.nibinitBody (c : Config) (n : Nibble) : ReadsFirst (nibinitBody c n) := by
  rw [Machine.nibinitBody, latchBit, rmwBit_pin]
  exact .read .latch _

theorem ReadsFirst.sendByteBody (c : Config) (b : Byte) (m : Bool) : ReadsFirst (sendByteBody c b m) := by
  rw [Machine.sendByteBody, latchBit, rmwBit_pin]
  exact .read .latch _

theorem ReadsFirst.lineselBody (c : Config) (l : Line) : ReadsFirst (lineselBody c l) :=
  (ReadsFirst.sendByteBody c _ false).append (.skip rfl .nil)

theorem ReadsFirst.spaces (c : Config) (n : Nat) : ReadsFirst (spaces c n) := by
  induction n with
  | zero      => exact .nil
  | succ n ih => exact (ReadsFirst.sendByteBody c 0x20 true).append ih

theorem ReadsFirst.clearExtra (c : Config) : ReadsFirst (clearExtra c) := by
  unfold Machine.clearExtra
  split
  · exact .skip rfl .nil
  · exact .nil

theorem ReadsFirst.clearBody (c : Config) : ReadsFirst (clearBody c) :=
  ((ReadsFirst.sendByteBody c _ false).append (.clearExtra c)).append (.sendByteBody c _ false)

/-- The cold start's first read is that of the backlight's direction bit (42_controller.md R174). -/
theorem ReadsFirst.coldStart (c : Config) : ReadsFirst (coldStart c) := by
  rw [Machine.coldStart, coldUnpowered, dirBit, rmwBit_pin]
  exact .skip rfl (.skip rfl (.read .dir _))

theorem ReadsFirst.ensureInitialized (s : State) : ReadsFirst (ensureInitialized s) := by
  unfold Machine.ensureInitialized
  split
  · exact .nil
  · exact .coldStart s.cfg

theorem readsFirst_expansionOf (s : State) (i : Instr) : ReadsFirst (expansionOf s i) := by
  have answered : ∀ {ms : List Micro}, ReadsFirst ms → ReadsFirst (ms ++ [Micro.respond]) :=
    fun h => h.append (.skip rfl .nil)
  cases i with
  | setdir b      => exact answered (.skip rfl .nil)
  | pinmode p l   => exact answered (.rmwBit .dir p l)
  | wrpin p l     => exact answered (.rmwBit .latch p l)
  | rdlatch       => exact .read .latch _
  | wrlatch b     => exact answered (.skip rfl .nil)
  | nibble n      => exact .read .latch _
  | nibinit n     => exact answered (.nibinitBody s.cfg n)
  | sendbyte b m  => exact answered (.sendByteBody s.cfg b m)
  | sendcmd b     => exact answered (.sendByteBody s.cfg b false)
  | sendchar b    => exact answered (.sendByteBody s.cfg b true)
  | init          => exact answered (.ensureInitialized s)
  | setcursor r c => exact answered (.sendByteBody s.cfg _ false)
  | linesel l     => exact answered (.lineselBody s.cfg l)
  | lineselCur    => exact answered (.lineselBody s.cfg s.currentLine)
  | clear         => exact answered ((ReadsFirst.ensureInitialized s).append (.clearBody s.cfg))
  | clearline l   =>
    exact answered ((ReadsFirst.ensureInitialized s).append ((ReadsFirst.lineselBody s.cfg l).append (.spaces s.cfg _)))

/-! ## A request -/

theorem expansionOf_setWork (s : State) (b : Byte) (i : Instr) : expansionOf (s.setWork b) i = expansionOf s i := by
  cases i <;> rfl

theorem complete_setWork (s : State) (b : Byte) : (s.setWork b).complete = s.complete.setWork b := by
  by_cases hp : s.phase = .busy
  · rw [complete_busy hp, complete_busy (by exact hp)]; rfl
  · rw [complete_not_busy hp, complete_not_busy (by exact hp)]

/-- Settles O51: the expansion does not depend on `W` and reads before it uses it. -/
theorem theWorkingImageCarriesNothingBetweenRequests : Obligations.TheWorkingImageCarriesNothingBetweenRequests := by
  intro i s b
  show mapNext State.forgetW (exec i (s.setWork b)) = mapNext State.forgetW (exec i s)
  rw [exec_eq_offer, exec_eq_offer, expansionOf_setWork]
  cases hp : s.phase
  case idle =>
    obtain ⟨c, e⟩ := (readsFirst_expansionOf s i).run_setWork (s.accept i (expansionOf s i)) b
    have accepted : (s.setWork b).accept i (expansionOf s i) = (s.accept i (expansionOf s i)).setWork b := rfl
    rw [offer_idle hp, offer_idle (by exact hp), accepted, e, complete_setWork]
    rfl
  case busy    => rw [offer_busy hp, offer_busy (by exact hp)]
  case faulted => rw [offer_faulted hp, offer_faulted (by exact hp)]

end Sys2Proof.Machine
end

section
/-! PROOFS. O20: what one read returns (20_memory.md R54), and O50: sequential consistency (R61). `Traced` says of a
piece of a run what its events are and that they account for the expander; it composes, so it is proved of one statement
and carried from there to a request. -/

namespace Sys2Proof.Machine

/-! ## What a read returns -/

theorem latchRead_port {c : Config} (h : c.readModel = .port) (x : Expander) (n : Nat) :
    latchRead c x n = portRead x (Config.portDraw n) := by
  simp [latchRead, h]

/-- An input pin shows the draw, an output pin its latch bit (20_memory.md R54). -/
theorem getLsbD_portRead (x : Expander) (draw : Byte) (i : Nat) :
    (portRead x draw).getLsbD i = if x.dir.getLsbD i then draw.getLsbD i else x.latch.getLsbD i := by
  simp only [portRead, BitVec.getLsbD_or, BitVec.getLsbD_and, BitVec.getLsbD_not]
  by_cases hi : i < 8
  · cases x.dir.getLsbD i <;> simp [hi]
  · simp [BitVec.getLsbD_of_ge, Nat.le_of_not_lt hi]

/-- Settles O20: the two reads, and the port levels bit by bit. -/
theorem readsReturnTheRegisterOrThePins : Obligations.ReadsReturnTheRegisterOrThePins := by
  refine fun s => ⟨readValue_dir s, fun latch => latchRead_latch latch s.x s.draws, fun port i => ?_⟩
  rw [readValue_latch, latchRead_port port, getLsbD_portRead]

theorem readValue_of_latch {s : State} (h : s.cfg.readModel = .latch) : ∀ r, s.readValue r = s.x.get r
  | .dir   => readValue_dir s
  | .latch => latchRead_latch h s.x s.draws

/-! ## What an event does to the expander -/

/-- Two registers with ids of their own are named by them (20_memory.md R51). -/
theorem regOfId_regId {c : Config} (h : c.regDir ≠ c.regLatch) : ∀ r, regOfId c (regId c r) = some r
  | .dir   => by simp [regOfId, regId]
  | .latch => by simp [regOfId, regId, h.symm]

@[simp] theorem Expander.after_failed (c : Config) (x : Expander) (a : Action) : x.after c ⟨a, true⟩ = x := by
  simp [Expander.after]

@[simp] theorem Expander.after_rd (c : Config) (x : Expander) (r v : Byte) : x.after c ⟨.rd r v, false⟩ = x := rfl

@[simp] theorem Expander.after_wait (c : Config) (x : Expander) (n : Nat) : x.after c ⟨.wait n, false⟩ = x := rfl

theorem Expander.after_wr {c : Config} (h : c.regDir ≠ c.regLatch) (x : Expander) (r : Reg) (v : Byte) :
    x.after c ⟨.wr (regId c r) v, false⟩ = x.set r v := by
  simp [Expander.after, regOfId_regId h]

theorem Expander.after_wb {c : Config} (h : c.regDir ≠ c.regLatch) (x : Expander) (r : Reg) (v : Byte) :
    x.after c ⟨.wb (regId c r) v, false⟩ = x.set r v := by
  simp [Expander.after, regOfId_regId h]

theorem Expander.replay_append (c : Config) (x : Expander) (es fs : List Event) :
    x.replay c (es ++ fs) = (x.replay c es).replay c fs := List.foldl_append

theorem readsSeeWrites_append (c : Config) (x : Expander) (es fs : List Event) :
    readsSeeWrites c x (es ++ fs) = (readsSeeWrites c x es && readsSeeWrites c (x.replay c es) fs) := by
  induction es generalizing x with
  | nil => rfl
  | cons e es ih => simp only [List.cons_append, readsSeeWrites, ih, Bool.and_assoc]; rfl

/-- A failed read returns nothing that could be wrong (60_exceptions.md R224). -/
theorem readsSeeWrites_failed (c : Config) (x : Expander) (a : Action) : readsSeeWrites c x [⟨a, true⟩] = true := by
  cases a <;> rfl

theorem readsSeeWrites_rd {c : Config} (h : c.regDir ≠ c.regLatch) (x : Expander) (r : Reg) :
    readsSeeWrites c x [⟨.rd (regId c r) (x.get r), false⟩] = true := by
  simp [readsSeeWrites, regOfId_regId h]

/-! ## A piece of a run and its events -/

/-- From `s` to `t` the parameters are as they were and the events `es` were appended to the trace; they account for the
expander, and under `READ_MODEL = latch` their reads see the writes before them (20_memory.md R54, R55, R61). -/
structure Traced (s t : State) (es : List Event) : Prop where
  cfg   : t.cfg = s.cfg
  trace : t.trace = s.trace ++ es
  x     : t.x = s.x.replay s.cfg es
  reads : s.cfg.readModel = .latch → readsSeeWrites s.cfg s.x es = true

/-- A change that writes neither the parameters nor the trace nor the expander. -/
theorem Traced.of_eq {s t : State} (hc : t.cfg = s.cfg) (ht : t.trace = s.trace) (hx : t.x = s.x) : Traced s t [] :=
  ⟨hc, by rw [ht, List.append_nil], hx, fun _ => rfl⟩

theorem Traced.refl (s : State) : Traced s s [] := .of_eq rfl rfl rfl

theorem Traced.trans {s t u : State} {es fs : List Event} (h : Traced s t es) (k : Traced t u fs) :
    Traced s u (es ++ fs) where
  cfg   := k.cfg.trans h.cfg
  trace := by rw [k.trace, h.trace, List.append_assoc]
  x     := by rw [k.x, h.cfg, h.x, Expander.replay_append]
  reads latch := by
    have later := k.reads (by rw [h.cfg, latch])
    rw [h.cfg, h.x] at later
    rw [readsSeeWrites_append, h.reads latch, later, Bool.and_self]

/-- A primitive that fails appends its marked event and leaves the expander alone (60_exceptions.md R224, R228). -/
theorem Traced.of_faults {s t : State} {a : Action} (h : Faults s t s.x [] a) : Traced s t [⟨a, true⟩] := by
  obtain ⟨-, -, -, cfg, -, x, trace, -⟩ := h
  exact ⟨cfg, by simpa using trace, x, fun _ => readsSeeWrites_failed s.cfg s.x a⟩

/-! ## One statement -/

/-- The request goes on from `s` to `t`: the events `es` completed, and neither the phase, nor the fault record, nor
whether there is a step position, changed. -/
structure Continues (s t : State) (es : List Event) : Prop extends Traced s t es where
  completed : ∀ e ∈ es, e.failed = false
  phase     : t.phase = s.phase
  fault     : t.fault = s.fault
  position  : t.position.isSome = s.position.isSome

/-- Everything a statement can do: the request goes on, or a transport primitive `a` fails (60_exceptions.md R228). -/
def ContinuesOrFaults (s t : State) : Prop :=
  (∃ es, Continues s t es) ∨ ∃ a, (⟨a, true⟩ : Event).isTransport = true ∧ Faults s t s.x [] a

/-- A statement that writes one block register and emits nothing. -/
theorem ContinuesOrFaults.silent {s t : State} (cfg : t.cfg = s.cfg) (trace : t.trace = s.trace) (x : t.x = s.x)
    (phase : t.phase = s.phase) (fault : t.fault = s.fault) (position : t.position = s.position) :
    ContinuesOrFaults s t :=
  .inl ⟨[], .of_eq cfg trace x, fun _ h => (nomatch h), phase, fault, by rw [position]⟩

/-- A transport primitive, after `n` draws, whose effect writes at most `W` and the expander. -/
theorem ContinuesOrFaults.transport (s : State) (n : Nat) {a : Action} {f : State → State}
    (ha : (⟨a, true⟩ : Event).isTransport = true) (hf : ∀ t, f t = { t with w := (f t).w, x := (f t).x })
    (hx : ∀ t : State, t.x = s.x → (f t).x = s.x.after s.cfg ⟨a, false⟩)
    (reads : s.cfg.readModel = .latch → readsSeeWrites s.cfg s.x [⟨a, false⟩] = true) :
    ContinuesOrFaults s (State.transport { s with draws := n } a f) := by
  obtain ⟨-, h⟩ | ⟨-, h⟩ := transport_cases { s with draws := n } a f <;> rw [h]
  · have x := hx (({ s with draws := n, failures := consumeDraw s.failures } : State).log a false) rfl
    rw [hf] at x ⊢
    exact .inl ⟨[⟨a, false⟩], ⟨rfl, rfl, x, reads⟩, by simp, rfl, rfl, rfl⟩
  · exact .inr ⟨a, ha, rfl, rfl, rfl, rfl, rfl, rfl, by simp, rfl⟩

theorem takeDraw_eq (s : State) : ∀ r, s.takeDraw r = { s with draws := (s.takeDraw r).draws }
  | .dir   => rfl
  | .latch => by rw [takeDraw_latch]

section
variable {s : State} (distinct : s.cfg.regDir ≠ s.cfg.regLatch)
include distinct

theorem ContinuesOrFaults.memRead (r : Reg) : ContinuesOrFaults s (s.memRead r) := by
  rw [State.memRead, takeDraw_eq]
  exact .transport s _ rfl (fun _ => rfl) (fun _ h => h) fun latch => by
    rw [readValue_of_latch latch]; exact readsSeeWrites_rd distinct s.x r

theorem ContinuesOrFaults.memWrite (r : Reg) (v : Byte) : ContinuesOrFaults s (s.memWrite r v) :=
  .transport s s.draws rfl (fun _ => rfl)
    (fun t h => by rw [State.setReg_x, h, Expander.after_wr distinct]) fun _ => rfl

theorem ContinuesOrFaults.memWriteBuf (r : Reg) (v : Byte) : ContinuesOrFaults s (s.memWriteBuf r v) :=
  .transport s s.draws rfl (fun _ => rfl)
    (fun t h => by rw [State.setReg_x, h, Expander.after_wb distinct]) fun _ => rfl

theorem ContinuesOrFaults.doMicro : ∀ m : Micro, ContinuesOrFaults s (s.doMicro m)
  | .read r          => .memRead distinct r
  | .writeW r        => .memWrite distinct r s.w
  | .writeWBit r p l => .memWrite distinct r (setbit s.w p l)
  | .writeByte r b   => .memWrite distinct r b
  | .writeBuf r b    => .memWriteBuf distinct r b
  | .wait n          => .inl ⟨[⟨.wait n, false⟩], ⟨rfl, rfl, rfl, fun _ => rfl⟩, by simp, rfl, rfl, rfl⟩
  | .setW _ _        => .silent rfl rfl rfl rfl rfl rfl
  | .enter _         => .silent rfl rfl rfl rfl rfl rfl
  | .setInitialized  => .silent rfl rfl rfl rfl rfl rfl
  | .setLine _       => .silent rfl rfl rfl rfl rfl rfl
  | .respond         => .silent rfl rfl rfl rfl rfl rfl
  | .respondW        => .silent rfl rfl rfl rfl rfl rfl

theorem ContinuesOrFaults.perform (hp : s.phase = .busy) (m : Micro) : ContinuesOrFaults s (s.perform m) := by
  rw [perform_busy hp]
  refine (ContinuesOrFaults.doMicro (s := s.advance) distinct m).imp_left fun ⟨es, h⟩ => ⟨es, ?_⟩
  exact ⟨⟨h.cfg, h.trace, h.x, h.reads⟩, h.completed, h.phase, h.fault, by simp [h.position]⟩

/-! ## A request -/

theorem Traced.perform (m : Micro) : ∃ es, Traced s (s.perform m) es := by
  by_cases hp : s.phase = .busy
  · obtain ⟨es, h⟩ | ⟨a, -, h⟩ := ContinuesOrFaults.perform distinct hp m
    · exact ⟨es, h.toTraced⟩
    · exact ⟨_, .of_faults h⟩
  · rw [perform_not_busy hp]; exact ⟨[], .refl s⟩

end

theorem Traced.run {s : State} (distinct : s.cfg.regDir ≠ s.cfg.regLatch) (ms : List Micro) :
    ∃ es, Traced s (s.run ms) es := by
  induction ms generalizing s with
  | nil => exact ⟨[], .refl s⟩
  | cons m ms ih =>
    obtain ⟨es, first⟩ := Traced.perform distinct m
    obtain ⟨fs, rest⟩ := ih (s := s.perform m) (by rw [first.cfg]; exact distinct)
    exact ⟨es ++ fs, first.trans rest⟩

theorem Traced.complete (s : State) : Traced s s.complete [] := by
  by_cases hp : s.phase = .busy
  · rw [complete_busy hp]; exact .of_eq rfl rfl rfl
  · rw [complete_not_busy hp]; exact .refl s

theorem Traced.exec {i : Instr} {s t : State} (distinct : s.cfg.regDir ≠ s.cfg.regLatch) (h : exec i s = .next t) :
    ∃ es, Traced s t es := by
  obtain ⟨-, rfl⟩ := exec_next h
  have accepted : Traced s (s.accept i (expansionOf s i)) [] := .of_eq rfl rfl rfl
  obtain ⟨es, ran⟩ := Traced.run (s := s.accept i (expansionOf s i)) distinct (expansionOf s i)
  exact ⟨_, (accepted.trans ran).trans (.complete _)⟩

theorem Traced.newEvents {s t : State} {es : List Event} (h : Traced s t es) : newEvents s t = es := by
  rw [Machine.newEvents, h.trace, List.drop_left]

/-- Settles O50: the events of a request account for the expander and for every read among them. -/
theorem readsObserveTheLastWrite : Obligations.ReadsObserveTheLastWrite := by
  intro i s t latch distinct h
  obtain ⟨es, traced⟩ := Traced.exec distinct h
  rw [traced.newEvents]
  exact ⟨traced.reads latch, traced.x⟩

end Sys2Proof.Machine
end

section
/-! PROOFS. O48: every step keeps the invariant. A state whose last change was no fault meets it by one lemma, a state
that a failing primitive left by another; the statements of a request are followed by induction. -/

namespace Sys2Proof.Machine

theorem Config.wellFormed.regs_ne {c : Config} (h : c.wellFormed = true) : c.regDir ≠ c.regLatch := by
  simp only [Config.wellFormed, Config.addressesOk, Bool.and_eq_true, decide_eq_true_eq] at h
  obtain ⟨⟨⟨-, -, distinct⟩, -⟩, -⟩ := h
  exact distinct

theorem Inv.regs_ne {s : State} (inv : Inv s) : s.cfg.regDir ≠ s.cfg.regLatch := by
  obtain ⟨wf, -⟩ := inv
  exact Config.wellFormed.regs_ne wf

theorem Inv.busy_iff {s : State} (inv : Inv s) : s.phase = .busy ↔ s.position.isSome = true := by
  obtain ⟨-, -, position, -⟩ := inv
  exact position

theorem Inv.fault_of_alive {s : State} (inv : Inv s) (alive : s.phase ≠ .faulted) : s.fault = none := by
  obtain ⟨-, -, -, noFault, -⟩ := inv
  exact noFault alive

/-- The replay of the whole trace goes on by the events of a piece of the run (20_memory.md R61). -/
theorem Inv.replay_of_traced {s t : State} {es : List Event} (inv : Inv s) (h : Traced s t es) :
    t.x = (powerOnExpander t.cfg).replay t.cfg t.trace := by
  obtain ⟨-, replayed, -⟩ := inv
  rw [h.x, h.cfg, h.trace, Expander.replay_append, ← replayed]

/-- After completed events the invariant asks only for the phase's clauses, when no fault is taken. -/
theorem Inv.of_traced {s t : State} {es : List Event} (inv : Inv s) (h : Traced s t es)
    (completed : ∀ e ∈ es, e.failed = false) (alive : t.phase ≠ .faulted) (fault : t.fault = none)
    (position : t.phase = .busy ↔ t.position.isSome = true) : Inv t := by
  have replayed := inv.replay_of_traced h
  obtain ⟨wf, -, -, -, -, marked⟩ := inv
  refine ⟨h.cfg ▸ wf, replayed, position, fun _ => fault, fun faulted => absurd faulted alive, fun e he failed => ?_⟩
  obtain old | new := List.mem_append.mp (h.trace ▸ he)
  · exact marked e old failed
  · simp [completed e new] at failed

/-- Fault entry: the record, the response and the marked last event agree (60_exceptions.md R228). -/
theorem Inv.of_faults {s t : State} {a : Action} (inv : Inv s) (ha : (⟨a, true⟩ : Event).isTransport = true)
    (h : Faults s t s.x [] a) : Inv t := by
  have traced := Traced.of_faults h
  have replayed := inv.replay_of_traced traced
  obtain ⟨wf, -, -, -, -, marked⟩ := inv
  obtain ⟨phase, position, fault, -, -, -, -, resp⟩ := h
  refine ⟨traced.cfg ▸ wf, replayed, by simp [phase, position], fun alive => absurd phase alive,
    fun _ => ⟨⟨a, true⟩, by simp [traced.trace], rfl, ha, fault, resp⟩, fun e he failed => ?_⟩
  obtain old | new := List.mem_append.mp (traced.trace ▸ he)
  · exact marked e old failed
  · rw [List.mem_singleton.mp new]; exact ha

/-! ## A request -/

theorem Inv.accept {s : State} (inv : Inv s) (hp : s.phase = .idle) (i : Instr) (ms : List Micro) :
    Inv (s.accept i ms) :=
  inv.of_traced (.of_eq rfl rfl rfl) (by simp) (by simp) (inv.fault_of_alive (by simp [hp])) (by simp)

theorem Inv.perform {s : State} (inv : Inv s) (m : Micro) : Inv (s.perform m) := by
  by_cases hp : s.phase = .busy
  · obtain ⟨es, h⟩ | ⟨a, ha, h⟩ := ContinuesOrFaults.perform inv.regs_ne hp m
    · have alive : s.phase ≠ .faulted := by simp [hp]
      exact inv.of_traced h.toTraced h.completed (by rwa [h.phase]) (h.fault.trans (inv.fault_of_alive alive))
        (by rw [h.phase, h.position, inv.busy_iff])
    · exact inv.of_faults ha h
  · rw [perform_not_busy hp]; exact inv

theorem Inv.run {s : State} (inv : Inv s) (ms : List Micro) : Inv (s.run ms) := by
  induction ms generalizing s with
  | nil => exact inv
  | cons m ms ih => exact ih (inv.perform m)

theorem Inv.complete {s : State} (inv : Inv s) : Inv s.complete := by
  by_cases hp : s.phase = .busy
  · have traced := Traced.complete s
    rw [complete_busy hp] at traced ⊢
    exact inv.of_traced traced (by simp) (by simp) (inv.fault_of_alive (by simp [hp])) (by simp)
  · rw [complete_not_busy hp]; exact inv

theorem Inv.exec {i : Instr} {s t : State} (inv : Inv s) (h : exec i s = .next t) : Inv t := by
  obtain ⟨hp, rfl⟩ := exec_next h
  exact ((inv.accept hp i _).run _).complete

/-! ## A step -/

/-- The invariant says nothing of the host's coming moves. -/
theorem Inv.host {s : State} (inv : Inv s) (rest : List HostMove) : Inv { s with host := rest } := inv

theorem Inv.blockReset {s : State} (inv : Inv s) : Inv s.blockReset :=
  inv.of_traced (.of_eq rfl rfl rfl) (by simp) (by simp) rfl (by simp)

theorem Inv.rejectRequest {s : State} (inv : Inv s) (hp : s.phase = .idle) : Inv s.rejectRequest := by
  have alive : s.phase ≠ .faulted := by simp [hp]
  exact inv.of_traced (.of_eq rfl rfl rfl) (by simp) alive (inv.fault_of_alive alive) inv.busy_iff

/-- Settles O48: each move of the host that a step can take keeps the invariant. -/
theorem everyStepKeepsTheInvariant : Obligations.EveryStepKeepsTheInvariant := by
  intro s t inv h
  obtain ⟨rest, -, e⟩ | ⟨-, e⟩ | ⟨-, e⟩ | ⟨-, -, e⟩ | ⟨w, rest, r, hp, -, -, e⟩ | ⟨w, rest, i, -, -, -, e⟩ :=
    step_cases s
  · cases e.symm.trans h; exact (inv.host rest).blockReset
  · cases e.symm.trans h
  · cases e.symm.trans h; exact (inv.run s.remaining).complete
  · cases e.symm.trans h; exact inv
  · cases e.symm.trans h; exact (inv.host rest).rejectRequest hp
  · exact (inv.host rest).exec (e.symm.trans h)

end Sys2Proof.Machine
end

section
/-! PROOFS. O1, O2 and O3: decoding and encoding are inverse to each other (30_encoding.md R80–R84). One lemma per format
says which fields it accepts and what it reads from them; the opcode map is then followed in one direction along the
requests and in the other along the opcodes. -/

namespace Sys2Proof

/-! ## The bits of a field -/

theorem Fields.eq_of_parts {f g : Fields} (op : f.op.toNat = g.op.toNat) (hi : f.hi = g.hi) (lo : f.lo = g.lo) :
    f = g := by
  cases f; cases g
  simpa using ⟨BitVec.eq_of_toNat_eq op, hi, lo⟩

theorem bitByte_and_0xFE (l : Bool) : bitByte l &&& 0xFE#8 = 0#8 := by cases l <;> rfl

theorem bitByte_of_and_0xFE {b : Byte} (h : b &&& 0xFE#8 = 0#8) : bitByte (b.getLsbD 0) = b := by
  revert b; decide

theorem append_of_and_0xF0 {b : Byte} (h : b &&& 0xF0#8 = 0#8) : 0#4 ++ b.extractLsb' 0 4 = b := by
  revert b; decide

theorem getLsbD_ite_zero (m : Bool) : (if m then 1 else 0 : Nibble).getLsbD 0 = m := by cases m <;> rfl

theorem ite_and_0xE (m : Bool) : (if m then 1 else 0 : Nibble) &&& 0xE#4 = 0#4 := by cases m <;> rfl

theorem ite_of_and_0xE {n : Nibble} (h : n &&& 0xE#4 = 0#4) : (if n.getLsbD 0 then 1 else 0) = n := by
  revert n; decide

theorem and_0xFC_eq_zero_iff (b : Byte) : b &&& 0xFC#8 = 0#8 ↔ b = 0#8 ∨ b = 1#8 ∨ b = 2#8 ∨ b = 3#8 := by
  revert b; decide

theorem toNat_ofNat_of_fitsNibble {n : Nat} (h : fitsNibble n = true) : (BitVec.ofNat 4 n).toNat = n :=
  Nat.mod_eq_of_lt (Nat.lt_succ_of_le (of_decide_eq_true h))

theorem fitsNibble_toNat (n : Nibble) : fitsNibble n.toNat = true :=
  decide_eq_true (Nat.le_of_lt_succ n.isLt)

theorem toInt_ofInt_of_fitsColumn {c : Int} (h : fitsColumn c = true) : (BitVec.ofInt 8 c).toInt = c := by
  simp only [fitsColumn, Bool.and_eq_true, decide_eq_true_eq] at h
  exact BitVec.toInt_ofInt_eq_self (by decide) (by omega) (by omega)

theorem fitsColumn_toInt (b : Byte) : fitsColumn b.toInt = true := by
  have low : -128 ≤ b.toInt := b.le_toInt
  have high : b.toInt < 128 := b.toInt_lt
  simp only [fitsColumn, Bool.and_eq_true, decide_eq_true_eq]
  omega

/-! ## What each format accepts -/

section
variable {f : Fields} {i : Instr}

@[simp] theorem whenReservedZero_eq_ok {zero : Bool} {j : Instr} :
    whenReservedZero zero j = .ok i ↔ zero = true ∧ j = i := by
  cases zero <;> simp [whenReservedZero]

@[simp] theorem decodeNone_eq_ok {j : Instr} : decodeNone f j = .ok i ↔ (f.hi = 0#4 ∧ f.lo = 0#8) ∧ j = i := by
  simp [decodeNone]

@[simp] theorem decodeB8_eq_ok {k : Byte → Instr} : decodeB8 f k = .ok i ↔ f.hi = 0#4 ∧ k f.lo = i := by
  simp [decodeB8]

@[simp] theorem decodePin_eq_ok {k : Nat → Bool → Instr} :
    decodePin f k = .ok i ↔ f.lo &&& 0xFE#8 = 0#8 ∧ k f.hi.toNat (f.lo.getLsbD 0) = i := by
  simp [decodePin]

@[simp] theorem decodeN4_eq_ok {k : Nibble → Instr} :
    decodeN4 f k = .ok i ↔ (f.hi = 0#4 ∧ f.lo &&& 0xF0#8 = 0#8) ∧ k (f.lo.extractLsb' 0 4) = i := by
  simp [decodeN4]

@[simp] theorem decodeRsb_eq_ok {k : Byte → Bool → Instr} :
    decodeRsb f k = .ok i ↔ f.hi &&& 0xE#4 = 0#4 ∧ k f.lo (f.hi.getLsbD 0) = i := by
  simp [decodeRsb]

@[simp] theorem decodeCur_eq_ok {k : Nat → Int → Instr} : decodeCur f k = .ok i ↔ k f.hi.toNat f.lo.toInt = i := by
  simp [decodeCur]

@[simp] theorem decodeLine_eq_ok {k : Line → Instr} :
    decodeLine f k = .ok i ↔ (f.hi = 0#4 ∧ f.lo &&& 0xFE#8 = 0#8) ∧ k (Line.ofBit (f.lo.getLsbD 0)) = i := by
  simp [decodeLine]

/-- Three low bytes are left to LINESEL: the fourth, `q` and `l` both 1, is illegal (30_encoding.md R83). -/
@[simp] theorem decodeLsel_eq_ok : decodeLsel f = .ok i ↔ f.hi = 0#4 ∧
    (f.lo = 0#8 ∧ .linesel .top = i ∨ f.lo = 1#8 ∧ .linesel .bottom = i ∨ f.lo = 2#8 ∧ .lineselCur = i) := by
  by_cases hhi : f.hi = 0#4
  · by_cases hlo : f.lo &&& 0xFC#8 = 0#8
    · obtain h | h | h | h := (and_0xFC_eq_zero_iff _).1 hlo <;> simp [decodeLsel, hhi, h, Line.ofBit]
    · have notSelect := mt (and_0xFC_eq_zero_iff _).2 hlo
      simp only [not_or] at notSelect
      simp [decodeLsel, hhi, hlo, notSelect]
  · simp [decodeLsel, hhi]

/-! ## The opcode map, along the requests and along the opcodes -/

theorem decodeFields_encodeFields (h : i.wellFormed = true) : decodeFields (encodeFields i) = .ok i := by
  cases i with
  | setdir b | wrlatch b | sendcmd b | sendchar b => exact decodeB8_eq_ok.2 ⟨rfl, rfl⟩
  | pinmode p l | wrpin p l =>
    exact decodePin_eq_ok.2
      ⟨bitByte_and_0xFE l, congrArg₂ _ (toNat_ofNat_of_fitsNibble h) (getLsbD_bitByte_zero l)⟩
  | rdlatch | init | clear | lineselCur => rfl
  | nibble n | nibinit n =>
    exact decodeN4_eq_ok.2 ⟨⟨rfl, Laws.ReservedZero.low_nibble n⟩, congrArg _ BitVec.extractLsb'_append_eq_right⟩
  | sendbyte b m => exact decodeRsb_eq_ok.2 ⟨ite_and_0xE m, congrArg _ (getLsbD_ite_zero m)⟩
  | setcursor r c =>
    obtain ⟨hr, hc⟩ := Bool.and_eq_true_iff.1 h
    exact decodeCur_eq_ok.2 (congrArg₂ _ (toNat_ofNat_of_fitsNibble hr) (toInt_ofInt_of_fitsColumn hc))
  | linesel l | clearline l => cases l <;> rfl

theorem encodeFields_of_decodeFields (h : decodeFields f = .ok i) : i.wellFormed = true ∧ encodeFields i = f := by
  unfold decodeFields at h
  split at h <;> rename_i op
  case h_1 | h_5 | h_9 | h_10 =>
    obtain ⟨hi, rfl⟩ := decodeB8_eq_ok.1 h
    exact ⟨rfl, Fields.eq_of_parts op.symm hi.symm rfl⟩
  case h_2 | h_3 =>
    obtain ⟨lo, rfl⟩ := decodePin_eq_ok.1 h
    exact ⟨fitsNibble_toNat f.hi, Fields.eq_of_parts op.symm (by simp [encodeFields]) (bitByte_of_and_0xFE lo)⟩
  case h_4 | h_11 | h_14 =>
    obtain ⟨⟨hi, lo⟩, rfl⟩ := decodeNone_eq_ok.1 h
    exact ⟨rfl, Fields.eq_of_parts op.symm hi.symm lo.symm⟩
  case h_6 | h_7 =>
    obtain ⟨⟨hi, lo⟩, rfl⟩ := decodeN4_eq_ok.1 h
    exact ⟨rfl, Fields.eq_of_parts op.symm hi.symm (append_of_and_0xF0 lo)⟩
  case h_8 =>
    obtain ⟨hi, rfl⟩ := decodeRsb_eq_ok.1 h
    exact ⟨rfl, Fields.eq_of_parts op.symm (ite_of_and_0xE hi) rfl⟩
  case h_12 =>
    obtain rfl := decodeCur_eq_ok.1 h
    exact ⟨Bool.and_eq_true_iff.2 ⟨fitsNibble_toNat f.hi, fitsColumn_toInt f.lo⟩,
      Fields.eq_of_parts op.symm (by simp [encodeFields]) (by simp [encodeFields])⟩
  case h_13 =>
    obtain ⟨hi, ⟨lo, rfl⟩ | ⟨lo, rfl⟩ | ⟨lo, rfl⟩⟩ := decodeLsel_eq_ok.1 h <;>
      exact ⟨rfl, Fields.eq_of_parts op.symm hi.symm lo.symm⟩
  case h_15 =>
    obtain ⟨⟨hi, lo⟩, rfl⟩ := decodeLine_eq_ok.1 h
    refine ⟨rfl, Fields.eq_of_parts op.symm hi.symm ?_⟩
    rw [encodeFields, Line.toBit_ofBit, bitByte_of_and_0xFE lo]
  case h_16 => cases h

end

/-- Settles O1: the decoder run on the ten words. -/
theorem decodeReadsTheSpecWords : Obligations.DecodeReadsTheSpecWords := by
  unfold Obligations.DecodeReadsTheSpecWords
  decide

/-- Settles O2: the word's fields are the request's, and decode to it. -/
theorem decodeOfEncodeGivesTheRequest : Obligations.DecodeOfEncodeGivesTheRequest := by
  intro i wf
  rw [decode_encode, decodeFields_encodeFields wf]

/-- Settles O3: the fields decoded are those the request encodes to, and they are the word's. -/
theorem encodeOfDecodeGivesTheWord : Obligations.EncodeOfDecodeGivesTheWord := by
  intro w i h
  obtain ⟨wf, fields⟩ := encodeFields_of_decodeFields h
  exact ⟨wf, by rw [encode, fields, Fields.toWord_ofWord]⟩

end Sys2Proof
end

section
/-! PROOFS. O4: which words are illegal (30_encoding.md R83), and what one does to an IDLE block (60_exceptions.md R222).
A format's reserved bits are tested field by field in the decoder and by one mask on the word in the claim; the fields
of the mask are what the decoder tests. -/

namespace Sys2Proof

open Machine

/-! ## The word under a mask -/

theorem Fields.toWord_injective : Function.Injective Fields.toWord :=
  Function.LeftInverse.injective ofWord_toWord

theorem Fields.toWord_and (f g : Fields) :
    f.toWord &&& g.toWord = toWord { op := f.op &&& g.op, hi := f.hi &&& g.hi, lo := f.lo &&& g.lo } :=
  BitVec.and_append.trans (congrArg (· ++ _) BitVec.and_append)

theorem Fields.toWord_and_eq_zero_iff (f : Fields) (mask : Word) : f.toWord &&& mask = 0#16 ↔
    f.op &&& (ofWord mask).op = 0#4 ∧ f.hi &&& (ofWord mask).hi = 0#4 ∧ f.lo &&& (ofWord mask).lo = 0#8 := by
  rw [← toWord_ofWord mask, toWord_and, ofWord_toWord, ← toWord_ofWord 0#16, toWord_injective.eq_iff]
  simp [ofWord]

theorem Fields.toWord_eq_0xD003_iff (f : Fields) :
    f.toWord = 0xD003#16 ↔ f.op.toNat = 0xD ∧ f.hi = 0#4 ∧ f.lo = 3#8 := by
  rw [← toWord_ofWord 0xD003#16, toWord_injective.eq_iff]
  constructor
  · rintro rfl; decide
  · rintro ⟨op, hi, lo⟩; exact eq_of_parts op hi lo

/-! ## The words that decode -/

theorem exists_decodeLsel_iff (f : Fields) :
    (∃ i, decodeLsel f = .ok i) ↔ (f.hi = 0#4 ∧ f.lo &&& 0xFC#8 = 0#8) ∧ ¬(f.hi = 0#4 ∧ f.lo = 3#8) := by
  simp only [decodeLsel_eq_ok, and_0xFC_eq_zero_iff, exists_and_left, exists_or, exists_eq', and_true]
  grind

theorem exists_decodeFields_iff (f : Fields) : (∃ i, decodeFields f = .ok i) ↔
    f.op.toNat ≠ 0 ∧ f.toWord &&& reservedMask f.op = 0#16 ∧ ¬(f.op.toNat = 0xD ∧ f.hi = 0#4 ∧ f.lo = 3#8) := by
  have and_0xF (n : Nibble) : n &&& 0xF#4 = n := BitVec.and_allOnes
  have and_0xFF (b : Byte) : b &&& 0xFF#8 = b := BitVec.and_allOnes
  rw [Fields.toWord_and_eq_zero_iff]
  unfold decodeFields
  split <;> rename_i op
  case h_13 =>
    rw [exists_decodeLsel_iff]
    simp [reservedMask, op, Fields.ofWord, and_0xF]
  case h_16 =>
    have zero : f.op.toNat = 0 := by
      have := f.op.isLt
      grind
    simp [zero]
  all_goals simp [reservedMask, op, Fields.ofWord, and_0xF, and_0xFF]

theorem decode_rejects_iff (w : Word) : (∀ i, decode w ≠ .ok i) ↔
    (w.extractLsb' 12 4 = 0#4 ∨ w &&& reservedMask (w.extractLsb' 12 4) ≠ 0#16 ∨ w = 0xD003#16) := by
  have accepts := exists_decodeFields_iff (Fields.ofWord w)
  rw [← Fields.toWord_eq_0xD003_iff, Fields.toWord_ofWord] at accepts
  have opcode : (Fields.ofWord w).op.toNat = 0 ↔ w.extractLsb' 12 4 = 0#4 := BitVec.toNat_inj (y := 0#4)
  rw [← not_exists, decode, accepts, ne_eq, opcode]
  simp only [Fields.ofWord, ne_eq, not_and_or, not_not]

end Sys2Proof

namespace Sys2Proof.Machine

theorem step_request {s : State} {w : Word} {rest : List HostMove} (idle : s.phase = .idle)
    (host : s.host = .request w :: rest) : step s = runWord w { s with host := rest } := by
  simp [step, hostStep, takeRequest, host, idle]

theorem runWord_ok {w : Word} {i : Instr} (h : decode w = .ok i) (s : State) : runWord w s = exec i s := by
  rw [runWord, h]

theorem runWord_rejects {w : Word} (h : ∀ i, decode w ≠ .ok i) (s : State) : runWord w s = .next s.rejectRequest := by
  rw [runWord]
  split
  · exact absurd ‹_› (h _)
  · rfl

/-- Settles O4: the words the decoder rejects, and a step on one of them and on the request after it. -/
theorem illegalWordsAreTheReservedOnesAndOnlyAnswer : Obligations.IllegalWordsAreTheReservedOnesAndOnlyAnswer := by
  intro w
  refine ⟨decode_rejects_iff w, fun s rest idle host illegal => ⟨?_, fun i more next wf => ?_⟩⟩
  · rw [step_request idle host, runWord_rejects illegal]; rfl
  · have decoded := decodeOfEncodeGivesTheRequest i wf
    exact (step_request (s := { s with host := rest, resp := _ }) idle next).trans (runWord_ok decoded _)

end Sys2Proof.Machine
end

section
/-! PROOFS. O27: nibble placement (30_encoding.md R88). -/

namespace Sys2Proof.Machine

theorem placeNibble_defaultPins (v : Byte) (n : Nibble) :
    placeNibble defaultPins v n = (v &&& ~~~0x78#8) ||| (n.setWidth 8 <<< 3) := by
  apply BitVec.eq_of_getLsbD_eq
  intro i hi
  simp only [placeNibble, getLsbD_setbit, defaultPins]
  interval_cases i <;> simp

/-- Settles O27: the placement is the four replacements, in order. -/
theorem nibblePlacementFollowsTheSpec : Obligations.NibblePlacementFollowsTheSpec :=
  ⟨fun _ _ _ => rfl, placeNibble_defaultPins⟩

end Sys2Proof.Machine
end

section
/-! PROOFS. The rules of layer 1 (40_expander.md R121–R126): the word of a request by its fields, how a request whose
statements ran to their end completes, how one whose transport primitive failed faults, and the read-modify-write of
either register. -/

namespace Sys2Proof

/-! ## The word by its fields -/

theorem Fields.toWord_eq_or (f : Fields) :
    f.toWord = (f.op.setWidth 16 <<< 12) ||| (f.hi.setWidth 16 <<< 8) ||| f.lo.setWidth 16 := by
  apply BitVec.eq_of_getLsbD_eq
  intro i hi
  simp only [toWord, BitVec.getLsbD_append, BitVec.getLsbD_or, BitVec.getLsbD_shiftLeft, BitVec.getLsbD_setWidth]
  grind

/-- `F_B8` (30_encoding.md R81). -/
theorem Fields.toWord_byte (op : Nibble) (b : Byte) :
    toWord { op := op, hi := 0, lo := b } = (op.setWidth 16 <<< 12) ||| b.setWidth 16 := by
  simp [toWord_eq_or]

/-- `F_PIN` (30_encoding.md R81). -/
theorem Fields.toWord_pin (op : Nibble) {p : Nat} (hp : p ≤ 15) (l : Bool) :
    toWord { op := op, hi := BitVec.ofNat 4 p, lo := bitByte l } =
      (op.setWidth 16 <<< 12) ||| (BitVec.ofNat 16 p <<< 8) ||| (bitByte l).setWidth 16 := by
  have widened : (BitVec.ofNat 4 p).setWidth 16 = BitVec.ofNat 16 p := by
    apply BitVec.eq_of_toNat_eq
    simp only [BitVec.toNat_setWidth, BitVec.toNat_ofNat]
    omega
  rw [toWord_eq_or, widened]

end Sys2Proof

namespace Sys2Proof.Machine

/-! ## A request that completes -/

section
variable {s u : State} {i : Instr} {ms : List Micro} {m : Micro} {x : Expander} {w d : Byte} {es : List Event}
  {n r : Nat}

/-- A request whose statements ran to the answer completes with what they left (10_state.md R25–R28). -/
theorem completes_of_ran (idle : s.phase = .idle) (e : expansionOf s i = ms ++ [m])
    (ran : Ran (s.accept i (expansionOf s i)) u x w es n r) (hu : (s.accept i (expansionOf s i)).run ms = u)
    (answer : ∀ v : State, v.w = w → v.doMicro m = v.answer .ok d) :
    ∃ t, exec i s = .next t ∧ Completes s t x es d ∧ SessionKept s t ∧ t.failures = consumeDraws n s.failures := by
  have last : u.perform m = u.advance.answer .ok d := (perform_busy ran.phase m).trans (answer _ ran.w)
  refine ⟨_, exec_idle idle i, ?_⟩
  rw [congrArg (State.run _) e, run_append, hu, run_cons, run_nil, last, complete_busy (by exact ran.phase)]
  exact ⟨⟨rfl, rfl, ran.fault, ran.cfg, ran.host, ran.x, ran.trace, rfl⟩, ⟨ran.initialized, ran.currentLine⟩,
    ran.failures⟩

/-! ## A request that faults -/

/-- The transport primitive that a statement issues (00_scope.md R14). -/
def Micro.action (s : State) : Micro → Option Action
  | .read r          => some (.rd (regId s.cfg r) (s.readValue r))
  | .writeW r        => some (.wr (regId s.cfg r) s.w)
  | .writeWBit r p l => some (.wr (regId s.cfg r) (setbit s.w p l))
  | .writeByte r b   => some (.wr (regId s.cfg r) b)
  | .writeBuf r b    => some (.wb (regId s.cfg r) b)
  | .wait _          => none
  | .setW _ _        => none
  | .enter _         => none
  | .setInitialized  => none
  | .setLine _       => none
  | .respond         => none
  | .respondW        => none

/-- The statement is that primitive, after the draw of a latch read. -/
theorem doMicro_of_action {s : State} {m : Micro} {a : Action} (h : m.action s = some a) :
    ∃ k f, s.doMicro m = State.transport { s with draws := k } a f := by
  cases m <;> cases h
  case read r => exact ⟨_, _, by rw [State.doMicro, State.memRead, takeDraw_eq]⟩
  all_goals exact ⟨s.draws, fun t => t.setReg _ _, rfl⟩

/-- Fault entry (60_exceptions.md R224, R228). -/
theorem perform_faults (busy : u.phase = .busy) {a : Action} (ha : m.action u = some a)
    (fails : nextFails u.failures = true) : Faults u (u.perform m) u.x [] a ∧ SessionKept u (u.perform m) := by
  obtain ⟨k, f, primitive⟩ := doMicro_of_action (s := u.advance) (m := m) (a := a) (by rw [← ha]; cases m <;> rfl)
  rw [perform_busy busy, primitive, transport_fail (by exact fails)]
  exact ⟨⟨rfl, rfl, rfl, rfl, rfl, rfl, by simp, rfl⟩, rfl, rfl⟩

/-- A request faults at its first transport primitive that fails, with what the statements before it left
(60_exceptions.md R228). -/
theorem faults_of_ran {ns : List Micro} {a : Action} (idle : s.phase = .idle)
    (e : expansionOf s i = ms ++ m :: ns) (ran : Ran (s.accept i (expansionOf s i)) u x w es n r)
    (hu : (s.accept i (expansionOf s i)).run ms = u) (ha : m.action u = some a)
    (fails : nextFails (consumeDraws n s.failures) = true) :
    ∃ t, exec i s = .next t ∧ Faults s t x es a ∧ SessionKept s t := by
  obtain ⟨⟨phase, position, fault, cfg, host, hx, trace, resp⟩, initialized, currentLine⟩ :=
    perform_faults ran.phase ha (by rw [ran.failures]; exact fails)
  have ended : (u.perform m).phase ≠ .busy := by rw [phase]; decide
  refine ⟨_, exec_idle idle i, ?_⟩
  rw [congrArg (State.run _) e, run_append, hu, run_cons, run_not_busy ended, complete_not_busy ended]
  exact ⟨⟨phase, position, fault, cfg.trans ran.cfg, host.trans ran.host, hx.trans ran.x,
    by rw [trace, ran.trace, List.append_nil]; rfl, resp⟩,
    initialized.trans ran.initialized, currentLine.trans ran.currentLine⟩

/-- A request whose first statement is a transport primitive that fails leaves the expander and adds that one event. -/
theorem faults_of_first {ns : List Micro} {a : Action} (idle : s.phase = .idle) (e : expansionOf s i = m :: ns)
    (ha : m.action (s.accept i (expansionOf s i)) = some a) (fails : transportOk 1 s.failures = false) :
    ∃ t, exec i s = .next t ∧ Faults s t s.x [] a ∧ SessionKept s t := by
  have failing : nextFails s.failures = true := by rw [nextFails_eq, fails]; rfl
  exact faults_of_ran (ms := []) idle e (.start rfl) rfl ha failing

end

/-! ## Read-modify-write -/

theorem rmwBit_of_le {p : Nat} (h : p ≤ 7) (r : Reg) (l : Bool) :
    rmwBit r p l = [.read r, .setW p l, .writeW r] :=
  if_neg (by omega)

/-- The first read of a request, of either register (20_memory.md R54). -/
theorem Ran.firstRead {s : State} (busy : s.phase = .busy) (ok : transportOk 1 s.failures = true) (r : Reg) :
    ∃ k, Ran s (s.perform (.read r)) s.x (s.readValue r) [evRd (regId s.cfg r) (s.readValue r)] 1 k := by
  cases r
  · exact ⟨0, (Ran.start busy).readDir ok Nat.one_pos⟩
  · exact ⟨1, (Ran.start busy).readLatch ok Nat.one_pos⟩

theorem Ran.writeReg {s t : State} {x : Expander} {w : Byte} {es : List Event} {n k N : Nat}
    (h : Ran s t x w es n k) (ok : transportOk N s.failures = true) (hn : n < N) (r : Reg) :
    Ran s (t.perform (.writeW r)) (x.set r w) w (es ++ [evWr (regId s.cfg r) w]) (n + 1) k := by
  cases r
  · exact h.writeDir ok hn
  · exact h.writeLatch ok hn

section
variable {s : State} {i : Instr} {r : Reg} {p : Nat} {l : Bool}
  (idle : s.phase = .idle) (e : expansionOf s i = rmwBit r p l ++ [.respond])
include idle e

/-- The range test makes the request a no-op, whatever the transport would do (40_expander.md R122, R128). -/
theorem exec_rmw_above_seven (hp : p > 7) : ∃ t, exec i s = .next t ∧
    Completes s t s.x [] 0 ∧ SessionKept s t ∧ t.failures = s.failures := by
  have empty : rmwBit r p l = [] := if_pos hp
  rw [empty] at e
  exact completes_of_ran idle e (.start rfl) rfl fun _ _ => rfl

/-- The register is written back with its bit replaced in the byte just read (40_expander.md R123, R124). -/
theorem exec_rmw_completes (hp : p ≤ 7) (ok : transportOk 2 s.failures = true) : ∃ t, exec i s = .next t ∧
    Completes s t (s.x.set r (setbit (s.readValue r) p l))
      [evRd (regId s.cfg r) (s.readValue r), evWr (regId s.cfg r) (setbit (s.readValue r) p l)] 0 ∧
    SessionKept s t ∧ t.failures = consumeDraws 2 s.failures := by
  obtain ⟨k, read⟩ := Ran.firstRead (s := s.accept i (expansionOf s i)) rfl (transportOk_mono (by omega) ok) r
  rw [rmwBit_of_le hp] at e
  exact completes_of_ran idle e ((read.setW p l).writeReg ok (by omega) r) rfl fun _ _ => rfl

/-- A fault at the read leaves both registers (40_expander.md R123, R124). -/
theorem exec_rmw_read_faults (hp : p ≤ 7) (fails : transportOk 1 s.failures = false) : ∃ t, exec i s = .next t ∧
    Faults s t s.x [] (.rd (regId s.cfg r) (s.readValue r)) ∧ SessionKept s t := by
  rw [rmwBit_of_le hp] at e
  exact faults_of_first idle e (by cases r <;> rfl) fails

/-- A fault at the write leaves both registers, after the read (40_expander.md R123, R124). -/
theorem exec_rmw_write_faults (hp : p ≤ 7) (ok : transportOk 1 s.failures = true)
    (fails : transportOk 2 s.failures = false) : ∃ t, exec i s = .next t ∧
    Faults s t s.x [evRd (regId s.cfg r) (s.readValue r)] (.wr (regId s.cfg r) (setbit (s.readValue r) p l)) ∧
    SessionKept s t := by
  obtain ⟨k, read⟩ := Ran.firstRead (s := s.accept i (expansionOf s i)) rfl ok r
  have ran := read.setW p l
  rw [rmwBit_of_le hp] at e
  exact faults_of_ran (ms := [.read r, .setW p l]) idle e ran rfl (by rw [Micro.action, ran.cfg, ran.w]; rfl)
    (nextFails_consumeDraw_of_one ok fails)

end

end Sys2Proof.Machine
end

section
/-! PROOFS. O12 to O16 and O18: the five requests of layer 1 one by one (40_expander.md R121–R126, R128). -/

namespace Sys2Proof.Machine

/-- Settles O13: the read-modify-write of the direction register. -/
theorem pinmodeReplacesOneDirectionBit : Obligations.PinmodeReplacesOneDirectionBit := by
  intro p l s idle
  have e : expansionOf s (.pinmode p l) = rmwBit .dir p l ++ [.respond] := rfl
  exact ⟨fun hp => Fields.toWord_pin 0x2 hp l,
    fun hp => (exec_rmw_above_seven idle e hp).imp fun _ ⟨ran, completes, kept, _⟩ => ⟨ran, completes, kept⟩,
    fun hp ok => (exec_rmw_completes idle e hp ok).imp fun _ ⟨ran, completes, kept, _⟩ => ⟨ran, completes, kept⟩,
    exec_rmw_read_faults idle e, exec_rmw_write_faults idle e⟩

/-- Settles O14: the read-modify-write of the latch register. -/
theorem wrpinReplacesOneLatchBit : Obligations.WrpinReplacesOneLatchBit := by
  rintro p l s _ idle rfl
  have e : expansionOf s (.wrpin p l) = rmwBit .latch p l ++ [.respond] := rfl
  exact ⟨fun hp => Fields.toWord_pin 0x3 hp l,
    fun hp => (exec_rmw_above_seven idle e hp).imp fun _ ⟨ran, completes, kept, _⟩ => ⟨ran, completes, kept⟩,
    fun hp ok => (exec_rmw_completes idle e hp ok).imp fun _ ⟨ran, completes, kept, _⟩ => ⟨ran, completes, kept⟩,
    exec_rmw_read_faults idle e, exec_rmw_write_faults idle e⟩

/-- Settles O12: the one buffer write, answered or failed. -/
theorem setdirWritesTheWholeDirectionRegister : Obligations.SetdirWritesTheWholeDirectionRegister := by
  refine fun b s idle => ⟨Fields.toWord_byte 0x1 b, fun ok => ?_, fun fails => ?_⟩
  · exact completes_of_performs (.writeBuf s.cfg b) rfl idle ok
  · exact faults_of_first idle rfl rfl fails

/-- Settles O16: the one register write, answered or failed. -/
theorem wrlatchWritesTheWholeLatch : Obligations.WrlatchWritesTheWholeLatch := by
  refine fun b s idle => ⟨Fields.toWord_byte 0x5 b, fun ok => ?_, fun fails => ?_⟩
  · exact completes_of_performs (.writeByte s.cfg b) rfl idle ok
  · exact faults_of_first idle rfl rfl fails

theorem exec_rdlatch_completes {s : State} (idle : s.phase = .idle) (ok : transportOk 1 s.failures = true) :
    ∃ t, exec .rdlatch s = .next t ∧
      Completes s t s.x [evRd s.cfg.regLatch (s.readValue .latch)] (s.readValue .latch) ∧ SessionKept s t := by
  obtain ⟨k, read⟩ := Ran.firstRead (s := s.accept .rdlatch (expansionOf s .rdlatch)) rfl ok .latch
  exact (completes_of_ran (ms := [.read .latch]) (m := .respondW) idle rfl read rfl
    fun v hv => congrArg (v.answer .ok) hv).imp fun _ ⟨ran, completes, kept, _⟩ => ⟨ran, completes, kept⟩

/-- Settles O15: the one read, answered or failed. -/
theorem rdlatchAnswersTheByteRead : Obligations.RdlatchAnswersTheByteRead := by
  rintro s _ idle rfl
  refine ⟨rfl, exec_rdlatch_completes idle, fun fails => ?_⟩
  exact faults_of_first idle rfl rfl fails

/-- Settles O18: both requests are read-modify-writes whose range test fails. -/
theorem pinAboveSevenIsNoOp : Obligations.PinAboveSevenIsNoOp := by
  intro p l s hp idle i hi
  have e : ∃ r, expansionOf s i = rmwBit r p l ++ [.respond] := by
    obtain rfl | rfl := hi
    · exact ⟨.latch, rfl⟩
    · exact ⟨.dir, rfl⟩
  obtain ⟨r, e⟩ := e
  obtain ⟨t, ran, ⟨phase, -, fault, -, -, x, trace, resp⟩, ⟨initialized, currentLine⟩, failures⟩ :=
    exec_rmw_above_seven idle e hp
  exact ⟨t, ran, by rw [trace, List.append_nil], x, phase, fault, resp, failures, initialized, currentLine⟩

end Sys2Proof.Machine
end

section
/-! PROOFS. O17: the preservation law (40_expander.md R127), bit by bit from what the two requests leave. -/

namespace Sys2Proof.Machine

theorem bits_of_eq_setbit {v w : Byte} {p : Fin 8} {l : Bool} (h : w = setbit v p.val l) :
    w.getLsbD p.val = l ∧ ∀ j, j ≠ p.val → w.getLsbD j = v.getLsbD j := by
  rw [h]
  exact ⟨getLsbD_setbit_self v p l, fun _ hj => getLsbD_setbit_other v l hj⟩

/-- Settles O17: WRPIN and PINMODE leave `setbit` of the register, and RDLATCH answers the latch as WRPIN left it. -/
theorem readModifyWritePreservesOtherBits : Obligations.ReadModifyWritePreservesOtherBits := by
  intro p l s idle latch ok
  have hp : p.val ≤ 7 := by omega
  have ok2 : transportOk 2 s.failures = true := transportOk_mono (by omega) ok
  constructor
  · obtain ⟨t, ran, ⟨phase, -, -, cfg, -, x, -, -⟩, -, failures⟩ :=
      exec_rmw_completes (i := .wrpin p.val l) (r := .latch) idle rfl hp ok2
    have ok1 : transportOk 1 t.failures = true := by rw [failures]; exact transportOk_consume 2 1 _ ok
    obtain ⟨u, read, ⟨-, -, -, -, -, -, -, resp⟩, -⟩ := exec_rdlatch_completes phase ok1
    rw [readValue_of_latch (by rw [cfg, latch])] at resp
    have written : t.x.latch = setbit s.x.latch p.val l := by rw [x, readValue_of_latch latch]; rfl
    obtain ⟨own, others⟩ := bits_of_eq_setbit written
    exact ⟨t, u, ran, read, own, others, by rw [x]; rfl, resp⟩
  · obtain ⟨t, ran, ⟨-, -, -, -, -, x, -, -⟩, -, -⟩ :=
      exec_rmw_completes (i := .pinmode p.val l) (r := .dir) idle rfl hp ok2
    have written : t.x.dir = setbit s.x.dir p.val l := by rw [x]; rfl
    obtain ⟨own, others⟩ := bits_of_eq_setbit written
    exact ⟨t, ran, own, others, by rw [x]; rfl⟩

end Sys2Proof.Machine
end

section
/-! PROOFS. O19: a bit outside `PIN_MAP` is left (40_expander.md R129). Every change of a register is a block: a read
of it, then statements on the image read. While a block goes on, its image agrees with its register in the bit, and so
does whatever it writes back, faults included; the expansions are put together from such blocks. -/

namespace Sys2Proof.Machine

/-! ## A block: statements on the image of one register -/

/-- The statement, on an image of the register `r`, neither changes bit `q` of the image nor writes another register. -/
def Micro.onImage (q : Nat) (r : Reg) : Micro → Prop
  | .read g          => g = r
  | .writeW g        => g = r
  | .writeWBit g p _ => g = r ∧ p ≠ q
  | .writeByte _ _   => False
  | .writeBuf _ _    => False
  | .wait _          => True
  | .setW p _        => p ≠ q
  | .enter _         => True
  | .setInitialized  => True
  | .setLine _       => True
  | .respond         => True
  | .respondW        => True

/-- Bit `q` of both registers is in `t` as it was in `s`, and bit `q` of the working image is that of register `r`. -/
structure Images (q : Nat) (r : Reg) (s t : State) : Prop where
  cfg  : t.cfg = s.cfg
  bits : ∀ g, (t.x.get g).getLsbD q = (s.x.get g).getLsbD q
  work : t.w.getLsbD q = (s.x.get r).getLsbD q

section
variable {q : Nat} {r : Reg} {s t : State}

theorem Images.of_eq {u : State} (h : Images q r s t) (cfg : u.cfg = t.cfg) (x : u.x = t.x) (w : u.w = t.w) :
    Images q r s u :=
  ⟨cfg.trans h.cfg, fun g => by rw [x, h.bits], by rw [w, h.work]⟩

theorem Images.setWork (h : Images q r s t) {b : Byte} (hb : b.getLsbD q = (s.x.get r).getLsbD q) :
    Images q r s (t.setWork b) :=
  ⟨h.cfg, h.bits, hb⟩

theorem Images.setReg (h : Images q r s t) {b : Byte} (hb : b.getLsbD q = (s.x.get r).getLsbD q) :
    Images q r s (t.setReg r b) := by
  refine ⟨h.cfg, fun g => ?_, h.work⟩
  by_cases hg : g = r
  · subst hg; cases g <;> exact hb
  · rw [State.setReg_x, Expander.get_set_other t.x b hg, h.bits]

/-- A transport primitive keeps what its effect keeps, for a fault keeps it too (60_exceptions.md R228). -/
theorem Images.transport (h : Images q r s t) (a : Action) {f : State → State}
    (hf : ∀ u, Images q r s u → Images q r s (f u)) : Images q r s (t.transport a f) := by
  obtain ⟨-, e⟩ | ⟨-, e⟩ := transport_cases t a f <;> rw [e]
  · exact hf _ (h.of_eq rfl rfl rfl)
  · exact h.of_eq rfl rfl rfl

theorem Images.memRead (h : Images q r s t) (latch : s.cfg.readModel = .latch) : Images q r s (t.memRead r) := by
  have read : (t.readValue r).getLsbD q = (s.x.get r).getLsbD q := by
    rw [readValue_of_latch (by rw [h.cfg, latch]), h.bits]
  have drawn : Images q r s (t.takeDraw r) := by rw [takeDraw_eq]; exact h.of_eq rfl rfl rfl
  exact drawn.transport _ fun _ k => k.setWork read

theorem Images.memWrite (h : Images q r s t) {b : Byte} (hb : b.getLsbD q = (s.x.get r).getLsbD q) :
    Images q r s (t.memWrite r b) :=
  h.transport _ fun _ k => k.setReg hb

theorem Images.work_setbit (h : Images q r s t) {p : Nat} (hp : p ≠ q) (l : Bool) :
    (setbit t.w p l).getLsbD q = (s.x.get r).getLsbD q := by
  rw [getLsbD_setbit_other _ _ hp.symm, h.work]

theorem Images.doMicro (h : Images q r s t) (latch : s.cfg.readModel = .latch) {m : Micro} (hm : m.onImage q r) :
    Images q r s (t.doMicro m) := by
  cases m with
  | read g          => obtain rfl := hm; exact h.memRead latch
  | writeW g        => obtain rfl := hm; exact h.memWrite h.work
  | writeWBit g p l => obtain ⟨rfl, hp⟩ := hm; exact h.memWrite (h.work_setbit hp l)
  | writeByte g b   => exact hm.elim
  | writeBuf g b    => exact hm.elim
  | setW p l        => exact h.setWork (h.work_setbit hm l)
  | _               => exact h.of_eq rfl rfl rfl

theorem Images.run (h : Images q r s t) (latch : s.cfg.readModel = .latch) {ms : List Micro}
    (hms : ∀ m ∈ ms, m.onImage q r) : Images q r s (t.run ms) := by
  induction ms generalizing t with
  | nil => exact h
  | cons m ms ih =>
    obtain ⟨hm, hms⟩ := List.forall_mem_cons.mp hms
    refine ih ?_ hms
    by_cases hp : t.phase = .busy
    · rw [perform_busy hp]; exact Images.doMicro (t := t.advance) (h.of_eq rfl rfl rfl) latch hm
    · rw [perform_not_busy hp]; exact h

/-- A read gives the image of its register, or its failure ends the request. -/
theorem perform_read_images (latch : s.cfg.readModel = .latch) (q : Nat) (r : Reg) :
    Images q r s (s.perform (.read r)) ∨ (s.perform (.read r)).phase ≠ .busy := by
  by_cases hp : s.phase = .busy
  · rw [perform_busy hp, State.doMicro, State.memRead, takeDraw_eq, readValue_of_latch (by exact latch)]
    obtain ⟨-, e⟩ | ⟨-, e⟩ := transport_cases _ _ _ <;> rw [e]
    · exact .inl ⟨rfl, fun _ => rfl, rfl⟩
    · exact .inr (by simp)
  · exact .inr (by rwa [perform_not_busy hp])

end

/-! ## Lists that leave a bit -/

/-- Under `READ_MODEL = latch` the statements leave bit `q` of both registers, whether they fault or not. -/
def LeavesBit (q : Nat) (ms : List Micro) : Prop :=
  ∀ s : State, s.cfg.readModel = .latch → ∀ r, ((s.run ms).x.get r).getLsbD q = (s.x.get r).getLsbD q

section
variable {q : Nat} {ms ns : List Micro}

theorem LeavesBit.of_no_target (h : ∀ m ∈ ms, m.target = none) : LeavesBit q ms :=
  fun s _ r => by rw [run_get_of_no_target (fun m hm => by simp [h m hm]) s]

theorem LeavesBit.append (h : LeavesBit q ms) (k : LeavesBit q ns) : LeavesBit q (ms ++ ns) := fun s latch r => by
  rw [run_append, k _ (by rw [(Grows.run s ms).cfg, latch]), h s latch]

theorem LeavesBit.flatten {mss : List (List Micro)} (h : ∀ ms ∈ mss, LeavesBit q ms) : LeavesBit q mss.flatten := by
  induction mss with
  | nil => exact .of_no_target (by simp)
  | cons ms mss ih =>
    obtain ⟨first, rest⟩ := List.forall_mem_cons.mp h
    exact first.append (ih rest)

theorem LeavesBit.block {r : Reg} (h : ∀ m ∈ ms, m.onImage q r) : LeavesBit q (.read r :: ms) := fun s latch g => by
  rw [run_cons]
  obtain image | ended := perform_read_images latch q r
  · exact (image.run latch h).bits g
  · rw [run_not_busy ended, (Spares.perform s (.read r)).register g (by simp [Micro.target])]

theorem LeavesBit.rmwBit {p : Nat} (hp : p ≠ q) (r : Reg) (l : Bool) : LeavesBit q (rmwBit r p l) := by
  unfold Machine.rmwBit
  split
  · exact .of_no_target (by simp)
  · exact .block (by simp [Micro.onImage, hp])

theorem LeavesBit.answered (h : LeavesBit q ms) : LeavesBit q (ms ++ [.respond]) :=
  h.append (.of_no_target (by simp [Micro.target]))

end

/-! ## The bodies -/

section
variable {c : Config} {q : Fin 8}

theorem LeavesBit.clearExtra (c : Config) (q : Nat) : LeavesBit q (clearExtra c) := by
  unfold Machine.clearExtra
  split
  · exact .of_no_target (by simp [Micro.target])
  · exact .of_no_target (by simp)

/-- The cold start after its SETDIR (42_controller.md R174). -/
def coldAfterSetdir (c : Config) : List Micro :=
  List.flatten
    [dirBit c.pins.bl.val false, latchBit c.pins.bl.val true, latchBit c.pins.rs.val false, latchBit c.pins.e.val false,
     dirBit c.pins.rs.val false, dirBit c.pins.e.val false, dirBit c.pins.db4.val false, dirBit c.pins.db5.val false,
     dirBit c.pins.db6.val false, dirBit c.pins.db7.val false, [.wait c.tPower],
     coldForced8bit c, coldSwitchTo4bit c, coldConfigured c, [.enter .ready, .setInitialized]]

theorem coldStart_eq_setdir (c : Config) :
    coldStart c = .enter .unpowered :: .writeBuf .dir c.initDirMask :: coldAfterSetdir c := by
  simp [coldStart, coldUnpowered, coldAfterSetdir]

variable (hq : q ∉ c.pins.positions)
include hq

theorem pins_ne_of_unmapped : c.pins.bl.val ≠ q.val ∧ c.pins.rs.val ≠ q.val ∧ c.pins.e.val ≠ q.val ∧
    c.pins.db4.val ≠ q.val ∧ c.pins.db5.val ≠ q.val ∧ c.pins.db6.val ≠ q.val ∧ c.pins.db7.val ≠ q.val := by
  simpa [PinMap.positions, Fin.ext_iff, eq_comm] using hq

theorem LeavesBit.nibbleBody (n : Nibble) : LeavesBit q (nibbleBody c n) :=
  .block (by simp [placeW, Micro.onImage, pins_ne_of_unmapped hq])

theorem LeavesBit.nibinitBody (n : Nibble) : LeavesBit q (nibinitBody c n) := by
  have wait : LeavesBit q [.wait c.tInitNib] := .of_no_target (by simp [Micro.target])
  exact .flatten (by simp [latchBit, LeavesBit.rmwBit, pins_ne_of_unmapped hq, wait])

theorem LeavesBit.sendByteBody (b : Byte) (m : Bool) : LeavesBit q (sendByteBody c b m) :=
  .flatten (by simp [latchBit, LeavesBit.rmwBit, pins_ne_of_unmapped hq, LeavesBit.nibbleBody hq])

theorem LeavesBit.spaces (n : Nat) : LeavesBit q (spaces c n) := by
  induction n with
  | zero      => exact .of_no_target fun _ h => nomatch h
  | succ n ih => exact (LeavesBit.sendByteBody hq 0x20 true).append ih

theorem LeavesBit.clearBody : LeavesBit q (clearBody c) :=
  ((LeavesBit.sendByteBody hq _ false).append (.clearExtra c q)).append (.sendByteBody hq _ false)

theorem LeavesBit.lineselBody (l : Line) : LeavesBit q (lineselBody c l) :=
  (LeavesBit.sendByteBody hq _ false).append (.of_no_target (by simp [Micro.target]))

theorem LeavesBit.clearlineBody (l : Line) : LeavesBit q (clearlineBody c l) :=
  (LeavesBit.lineselBody hq l).append (.spaces hq _)

theorem LeavesBit.coldAfterSetdir : LeavesBit q (coldAfterSetdir c) := by
  have wait : ∀ n, LeavesBit q [.wait n] := fun n => .of_no_target (by simp [Micro.target])
  have enter : ∀ st, LeavesBit q [.enter st] := fun st => .of_no_target (by simp [Micro.target])
  have ready : LeavesBit q [.enter .ready, .setInitialized] := .of_no_target (by simp [Micro.target])
  have forced : LeavesBit q (coldForced8bit c) := .flatten (by simp [enter, wait, LeavesBit.nibinitBody hq])
  have switched : LeavesBit q (coldSwitchTo4bit c) := .flatten (by simp [enter, wait, LeavesBit.nibinitBody hq])
  have configured : LeavesBit q (coldConfigured c) :=
    .flatten (by simp [enter, LeavesBit.sendByteBody hq, LeavesBit.clearExtra])
  exact .flatten (by
    simp [latchBit, dirBit, LeavesBit.rmwBit, pins_ne_of_unmapped hq, wait, ready, forced, switched, configured])

end

/-! ## The requests -/

theorem eq_of_ensuresInit {i : Instr} (h : ensuresInit i = true) : i = .init ∨ i = .clear ∨ ∃ l, i = .clearline l := by
  cases i with
  | init        => exact .inl rfl
  | clear       => exact .inr (.inl rfl)
  | clearline l => exact .inr (.inr ⟨l, rfl⟩)
  | _           => cases h

section
variable {s t : State} {i : Instr} {q : Fin 8} (hq : q ∉ s.cfg.pins.positions)
include hq

/-- Every request but the raw ones and its own position leaves the bit, when there is no cold start to execute. -/
theorem LeavesBit.expansionOf (hset : ∀ b, i ≠ .setdir b) (hwr : ∀ b, i ≠ .wrlatch b)
    (hmode : ∀ l, i ≠ .pinmode q.val l) (hpin : ∀ l, i ≠ .wrpin q.val l)
    (ready : ensuresInit i = true → s.initialized = true) : LeavesBit q (expansionOf s i) := by
  have skip : ∀ {ms}, s.initialized = true → LeavesBit q ms → LeavesBit q (ensureInitialized s ++ ms) :=
    fun h hms => by rw [ensureInitialized, if_pos h]; exact hms
  cases i with
  | setdir b      => exact absurd rfl (hset b)
  | wrlatch b     => exact absurd rfl (hwr b)
  | pinmode p l   => exact .answered (.rmwBit (fun e => hmode l (congrArg (Instr.pinmode · l) e)) .dir l)
  | wrpin p l     => exact .answered (.rmwBit (fun e => hpin l (congrArg (Instr.wrpin · l) e)) .latch l)
  | rdlatch       => exact .block (by simp [Micro.onImage])
  | nibble n      => exact .answered (.nibbleBody hq n)
  | nibinit n     => exact .answered (.nibinitBody hq n)
  | sendbyte b m  => exact .answered (.sendByteBody hq b m)
  | sendcmd b     => exact .answered (.sendByteBody hq b false)
  | sendchar b    => exact .answered (.sendByteBody hq b true)
  | setcursor r k => exact .answered (.sendByteBody hq _ false)
  | linesel l     => exact .answered (.lineselBody hq l)
  | lineselCur    => exact .answered (.lineselBody hq s.currentLine)
  | init          => exact skip (ready rfl) (.of_no_target (by simp [Micro.target]))
  | clear         => exact .answered (skip (ready rfl) (.clearBody hq))
  | clearline l   => exact .answered (skip (ready rfl) (.clearlineBody hq l))

/-- A request that cold-starts the block is a SETDIR, and then leaves the bit (42_controller.md R176). -/
theorem expansionOf_coldStart (hi : ensuresInit i = true) (cold : s.initialized = false) :
    ∃ rest, expansionOf s i = .enter .unpowered :: .writeBuf .dir s.cfg.initDirMask :: rest ∧ LeavesBit q rest := by
  have body : ∀ {ms}, LeavesBit q ms → ∃ rest, ensureInitialized s ++ ms =
      .enter .unpowered :: .writeBuf .dir s.cfg.initDirMask :: rest ∧ LeavesBit q rest := fun {ms} h =>
    ⟨coldAfterSetdir s.cfg ++ ms, by simp [ensureInitialized, cold, coldStart_eq_setdir],
      (LeavesBit.coldAfterSetdir hq).append h⟩
  obtain rfl | rfl | ⟨l, rfl⟩ := eq_of_ensuresInit hi
  · exact body (.of_no_target (by simp [Micro.target]))
  · rw [Machine.expansionOf, List.append_assoc]; exact body (.answered (.clearBody hq))
  · rw [Machine.expansionOf, List.append_assoc]; exact body (.answered (.clearlineBody hq l))

end

/-- A buffer write to the direction register sets it, or fails or is not reached, and leaves it (20_memory.md R56). -/
theorem perform_writeBuf_dir (s : State) (b : Byte) :
    (s.perform (.writeBuf .dir b)).x.dir = s.x.dir ∨ (s.perform (.writeBuf .dir b)).x.dir = b := by
  by_cases hp : s.phase = .busy
  · rw [perform_busy hp, State.doMicro, State.memWriteBuf]
    obtain ⟨-, e⟩ | ⟨-, e⟩ := transport_cases s.advance (.wb (regId s.cfg .dir) b) fun t => t.setReg .dir b
    · exact .inr (congrArg (fun t => t.x.dir) e)
    · exact .inl (congrArg (fun t => t.x.dir) e)
  · rw [perform_not_busy hp]; exact .inl rfl

/-- After its SETDIR the cold start leaves the bit: in the latch it is as before, in the direction register as before or
as the SETDIR set it. -/
theorem LeavesBit.run_coldStart {q : Nat} {rest : List Micro} (h : LeavesBit q rest) {s : State}
    (latch : s.cfg.readModel = .latch) (busy : s.phase = .busy) (b : Byte) {u : State}
    (hu : s.run (.enter .unpowered :: .writeBuf .dir b :: rest) = u) :
    u.x.latch.getLsbD q = s.x.latch.getLsbD q ∧
      (u.x.dir.getLsbD q = s.x.dir.getLsbD q ∨ u.x.dir.getLsbD q = b.getLsbD q) := by
  have labelled : (s.perform (.enter .unpowered)).x = s.x := by rw [perform_busy busy]; rfl
  have written := perform_writeBuf_dir (s.perform (.enter .unpowered)) b
  have kept := run_get_of_no_target (ms := [.enter .unpowered, .writeBuf .dir b]) (r := .latch)
    (by simp [Micro.target]) s
  have left := h (s.run [.enter .unpowered, .writeBuf .dir b]) (by rw [(Grows.run s _).cfg, latch])
  subst hu
  have bit : ∀ {v w : Byte}, v = w → v.getLsbD q = w.getLsbD q := congrArg (BitVec.getLsbD · q)
  rw [labelled] at written
  exact ⟨(left .latch).trans (bit kept),
    written.imp (fun e => (left .dir).trans (bit e)) (fun e => (left .dir).trans (bit e))⟩

/-- Settles O19: an expansion is made of blocks that leave the bit, after the cold start's SETDIR if it has one. -/
theorem theUnusedBitIsNeverTouched : Obligations.TheUnusedBitIsNeverTouched := by
  intro i s t q latch hq h hset hwr hmode hpin
  obtain ⟨-, rfl⟩ := exec_next h
  rw [complete_x]
  by_cases ready : ensuresInit i = true → s.initialized = true
  · have left := LeavesBit.expansionOf hq hset hwr hmode hpin ready (s.accept i (expansionOf s i)) latch
    exact ⟨left .latch, .inl (left .dir)⟩
  · obtain ⟨hi, cold⟩ := Classical.not_imp.mp ready
    rw [Bool.not_eq_true] at cold
    obtain ⟨rest, e, leaves⟩ := expansionOf_coldStart hq hi cold
    obtain ⟨latchKept, dirKept⟩ := leaves.run_coldStart (s := s.accept i (expansionOf s i)) latch rfl _
      (congrArg (State.run _) e.symm)
    exact ⟨latchKept, dirKept.imp_right fun masked => ⟨cold, eq_of_ensuresInit hi, masked⟩⟩

end Sys2Proof.Machine
end

section
/-! PROOFS. O22, O23, O24 and O25: NIBBLE, NIBINIT and SENDBYTE each complete as their scripts say (41_parallel_bus.md
R141–R143), and the scripts' events have fixed counts (R144). -/

namespace Sys2Proof

/-- `F_N4` (30_encoding.md R81). -/
theorem Fields.toWord_nibble (op n : Nibble) :
    toWord { op := op, hi := 0, lo := 0#4 ++ n } = (op.setWidth 16 <<< 12) ||| n.setWidth 16 := by
  have widened : ∀ n : Nibble, (0#4 ++ n).setWidth 16 = n.setWidth 16 := by decide
  simp [toWord_eq_or, widened]

/-- `F_RSB` (30_encoding.md R81). -/
theorem Fields.toWord_rsb (op : Nibble) (b : Byte) (m : Bool) :
    toWord { op := op, hi := if m then 1 else 0, lo := b } =
      (op.setWidth 16 <<< 12) ||| ((bitByte m).setWidth 16 <<< 8) ||| b.setWidth 16 := by
  cases m <;> simp [toWord_eq_or, bitByte]

end Sys2Proof

namespace Sys2Proof.Machine

/-! ## The requests perform their scripts -/

section
variable {s : State}

theorem exec_nibble_completes (n : Nibble) (idle : s.phase = .idle) (ok : transportOk 4 s.failures = true) :
    ∃ t, exec (.nibble n) s = .next t ∧
      Completes s t (playEnd s.cfg s.x s.draws [.nib n]) (playEvents s.cfg s.x s.draws [.nib n]) 0 ∧
      SessionKept s t :=
  completes_of_performs (.nibble s.cfg n) rfl idle ok

theorem exec_nibinit_completes (n : Nibble) (idle : s.phase = .idle) (ok : transportOk 14 s.failures = true) :
    ∃ t, exec (.nibinit n) s = .next t ∧
      Completes s t (playEnd s.cfg s.x s.draws (nibinitScript s.cfg n))
        (playEvents s.cfg s.x s.draws (nibinitScript s.cfg n)) 0 ∧
      SessionKept s t :=
  completes_of_performs (.nibinit s.cfg n) rfl idle (by rwa [scriptTransports_nibinit])

/-- SENDBYTE, and SENDCMD and SENDCHAR, which expand to the same statements (42_controller.md R171, R172). -/
theorem exec_send_completes {i : Instr} {b : Byte} {m : Bool}
    (e : expansionOf s i = sendByteBody s.cfg b m ++ [.respond]) (idle : s.phase = .idle) (ok : transportOk 10 s.failures = true) :
    ∃ t, exec i s = .next t ∧
      Completes s t (playEnd s.cfg s.x s.draws (sendScript s.cfg b m))
        (playEvents s.cfg s.x s.draws (sendScript s.cfg b m)) 0 ∧
      SessionKept s t :=
  completes_of_performs (.sendByte s.cfg b m) e idle (by rwa [scriptTransports_send])

end

/-- Settles O22: the script of NIBBLE is the one act `nib`, whose events and image are R141's. -/
theorem nibbleStrobesTheImageOfTheValueRead : Obligations.NibbleStrobesTheImageOfTheValueRead := by
  rintro n s v w idle ok rfl rfl
  obtain ⟨t, h, done, kept⟩ := exec_nibble_completes n idle ok
  exact ⟨Fields.toWord_nibble 0x6 n, t, h, kept, done⟩

/-- Settles O23: the pin-level changes and the waits of NIBINIT, one after the other. -/
theorem nibinitPerformsTheColdStartNibble : Obligations.NibinitPerformsTheColdStartNibble := by
  intro n s idle ok
  obtain ⟨t, h, done, kept⟩ := exec_nibinit_completes n idle ok
  exact ⟨Fields.toWord_nibble 0x7 n, t, h, kept, done⟩

/-- Settles O24: RS, then the two nibbles, one after the other. -/
theorem sendbyteSendsHighNibbleThenLowNibble : Obligations.SendbyteSendsHighNibbleThenLowNibble := by
  intro b m s idle ok
  obtain ⟨t, h, done, kept⟩ := exec_send_completes (i := .sendbyte b m) rfl idle ok
  exact ⟨Fields.toWord_rsb 0x8 b m, t, h, kept, done⟩

/-! ## The events of the scripts -/

theorem newEvents_of_completes {s t : State} {x : Expander} {es : List Event} {d : Byte}
    (h : Completes s t x es d) : newEvents s t = es := by
  obtain ⟨-, -, -, -, -, -, trace, -⟩ := h
  rw [newEvents, trace, List.drop_left]

/-- A position of `PIN_MAP` is in range, so a change of it is a read and a write (40_expander.md R122). -/
theorem pinEvents_pin (r v : Byte) (q : Fin 8) (l : Bool) :
    pinEvents r v q.val l = [evRd r v, evWr r (setbit v q.val l)] :=
  if_neg (pin_not_above_seven q)

section
variable (c : Config) (x : Expander) (d : Nat)

theorem countEvents_nibble (n : Nibble) :
    countEvents (playEvents c x d [.nib n]) = { rd := 1, wr := 3, wait := 3, total := 7 } := rfl

theorem countEvents_nibinitScript (n : Nibble) :
    countEvents (playEvents c x d (nibinitScript c n)) = { rd := 7, wr := 7, wait := 4, total := 18 } := by
  simp only [nibinitScript, playEvents, Act.events, pinEvents_pin]
  rfl

theorem countEvents_sendScript (b : Byte) (m : Bool) :
    countEvents (playEvents c x d (sendScript c b m)) = { rd := 3, wr := 7, wait := 6, total := 16 } := by
  simp only [sendScript, playEvents, Act.events, pinEvents_pin]
  rfl

theorem waitUnits_nibble (n : Nibble) :
    waitUnits (playEvents c x d [.nib n]) = c.tSetup + (c.tPulse + c.tHold) := rfl

theorem waitUnits_nibinitScript (n : Nibble) :
    waitUnits (playEvents c x d (nibinitScript c n)) =
      c.tInitNib + (c.tInitNib + (c.tInitNib + c.tInitNib)) := by
  simp only [nibinitScript, playEvents, Act.events, pinEvents_pin]
  rfl

theorem waitUnits_sendScript (b : Byte) (m : Bool) :
    waitUnits (playEvents c x d (sendScript c b m)) =
      c.tSetup + (c.tPulse + (c.tHold + (c.tSetup + (c.tPulse + c.tHold)))) := by
  simp only [sendScript, playEvents, Act.events, pinEvents_pin]
  rfl

end

/-- The lower bounds of the waits of a nibble and of a cold-start nibble (70_reset_and_hazards.md R275). -/
theorem Config.waitsOk.nibble_bounds {c : Config} (h : c.waitsOk = true) :
    1 ≤ c.tSetup ∧ 1 ≤ c.tPulse ∧ 100 ≤ c.tHold ∧ 1 ≤ c.tInitNib := by
  simp only [Config.waitsOk, Bool.and_eq_true, decide_eq_true_eq] at h
  omega

/-- Settles O25: the events are those of the scripts, whose counts and sums of waits no operand enters. -/
theorem transactionCountsAreFixed : Obligations.TransactionCountsAreFixed := by
  refine fun s idle => ⟨fun n ok => ?_, fun n ok => ?_, fun b m ok => ?_⟩
  · obtain ⟨t, h, done, -⟩ := exec_nibble_completes n idle ok
    refine ⟨t, h, ?_⟩
    rw [newEvents_of_completes done, countEvents_nibble, waitUnits_nibble]
    refine ⟨rfl, fun waits => ?_, fun defaults => by rw [defaults]; rfl⟩
    have := Config.waitsOk.nibble_bounds waits
    omega
  · obtain ⟨t, h, done, -⟩ := exec_nibinit_completes n idle ok
    refine ⟨t, h, ?_⟩
    rw [newEvents_of_completes done, countEvents_nibinitScript, waitUnits_nibinitScript]
    refine ⟨rfl, fun waits => ?_, fun defaults => by rw [defaults]; rfl⟩
    have := Config.waitsOk.nibble_bounds waits
    omega
  · obtain ⟨t, h, done, -⟩ := exec_send_completes (i := .sendbyte b m) rfl idle ok
    refine ⟨t, h, ?_⟩
    rw [newEvents_of_completes done, countEvents_sendScript, waitUnits_sendScript]
    refine ⟨rfl, fun waits => ?_, fun defaults => by rw [defaults]; rfl⟩
    have := Config.waitsOk.nibble_bounds waits
    omega

end Sys2Proof.Machine
end

section
/-! PROOFS. A request that ended without a fault issued every transport primitive of its expansion, so the transport
answered them all (60_exceptions.md R224, R228) and the request did what its script says. -/

namespace Sys2Proof.Machine

/-- The statement issues a transport primitive (00_scope.md R14). -/
def Micro.isTransport : Micro → Bool
  | .read _          => true
  | .writeW _        => true
  | .writeWBit _ _ _ => true
  | .writeByte _ _   => true
  | .writeBuf _ _    => true
  | .wait _          => false
  | .setW _ _        => false
  | .enter _         => false
  | .setInitialized  => false
  | .setLine _       => false
  | .respond         => false
  | .respondW        => false

/-- The transport primitives that a list of statements issues. -/
def microTransports (ms : List Micro) : Nat := ms.countP Micro.isTransport

theorem microTransports_append (ms ns : List Micro) :
    microTransports (ms ++ ns) = microTransports ms + microTransports ns := List.countP_append

theorem exists_action_of_isTransport {m : Micro} (h : m.isTransport = true) (s : State) : ∃ a, m.action s = some a := by
  cases m with
  | read | writeW | writeWBit | writeByte | writeBuf => exact ⟨_, rfl⟩
  | _ => cases h

section
variable {s : State}

theorem transport_failures (s : State) (a : Action) {f : State → State} (hf : ∀ t, (f t).failures = t.failures) :
    (s.transport a f).failures = consumeDraw s.failures := by
  obtain ⟨-, e⟩ | ⟨-, e⟩ := transport_cases s a f <;> rw [e]
  · rw [hf]; rfl
  · rfl

theorem doMicro_failures (s : State) (m : Micro) :
    (s.doMicro m).failures = if m.isTransport then consumeDraw s.failures else s.failures := by
  cases m with
  | read r          => rw [State.doMicro, State.memRead, takeDraw_eq]; exact transport_failures _ _ fun _ => rfl
  | writeW r        => exact transport_failures s _ fun _ => rfl
  | writeWBit r p l => exact transport_failures s _ fun _ => rfl
  | writeByte r b   => exact transport_failures s _ fun _ => rfl
  | writeBuf r b    => exact transport_failures s _ fun _ => rfl
  | _               => rfl

/-- A statement that leaves the request alive had its transport primitive answered. -/
theorem nextFails_of_perform_busy {m : Micro} (hm : m.isTransport = true) (h : (s.perform m).phase = .busy) :
    nextFails s.failures = false := by
  have busy : s.phase = .busy := busy_of_run_append (ms := []) (ns := [m]) h
  obtain ⟨a, ha⟩ := exists_action_of_isTransport hm s
  by_contra fails
  obtain ⟨⟨faulted, -⟩, -⟩ := perform_faults busy ha (eq_true_of_ne_false fails)
  rw [h] at faulted
  cases faulted

/-- A run that is still BUSY had all its transport primitives answered, and took their draws. -/
theorem failures_of_run_busy {ms : List Micro} (h : (s.run ms).phase = .busy) :
    transportOk (microTransports ms) s.failures = true ∧
      (s.run ms).failures = consumeDraws (microTransports ms) s.failures := by
  induction ms generalizing s with
  | nil => exact ⟨transportOk_zero _, rfl⟩
  | cons m ms ih =>
    have alive : (s.perform m).phase = .busy := busy_of_run_append (ms := [m]) h
    have busy : s.phase = .busy := busy_of_run_append (ms := []) (ns := [m]) alive
    have rest := ih h
    have taken : (s.perform m).failures = if m.isTransport then consumeDraw s.failures else s.failures := by
      rw [perform_busy busy, doMicro_failures, State.advance_failures]
    rw [taken] at rest
    by_cases hm : m.isTransport = true
    · rw [if_pos hm] at rest
      rw [microTransports, List.countP_cons_of_pos hm, transportOk_succ, nextFails_of_perform_busy hm alive]
      exact rest
    · rw [if_neg hm] at rest
      rw [microTransports, List.countP_cons_of_neg hm]
      exact rest

/-- A request that ended without a fault ran to its end. -/
theorem run_busy_of_safe {i : Instr} {t : State} (h : exec i s = .next t) (safe : t.Safe) :
    ((s.accept i (expansionOf s i)).run (expansionOf s i)).phase = .busy := by
  obtain ⟨-, rfl⟩ := exec_next h
  obtain ⟨busy, -⟩ | ⟨-, faulted⟩ := complete_accept_run s i (expansionOf s i)
  · exact busy
  · exact absurd faulted safe

theorem transportOk_of_safe {i : Instr} {t : State} (h : exec i s = .next t) (safe : t.Safe) :
    transportOk (microTransports (expansionOf s i)) s.failures = true :=
  have ⟨answered, _⟩ := failures_of_run_busy (run_busy_of_safe h safe)
  answered

theorem failures_of_safe {i : Instr} {t : State} (h : exec i s = .next t) (safe : t.Safe) :
    t.failures = consumeDraws (microTransports (expansionOf s i)) s.failures := by
  have busy := run_busy_of_safe h safe
  obtain ⟨-, taken⟩ := failures_of_run_busy busy
  obtain ⟨-, rfl⟩ := exec_next h
  rw [complete_busy busy]
  exact taken

/-- A request that ended without a fault did what its script says, when its transport primitives are the script's. -/
theorem completes_of_safe {i : Instr} {t : State} {ms : List Micro} {as : List Act} (h : exec i s = .next t)
    (safe : t.Safe) (performs : Performs s.cfg ms as) (e : expansionOf s i = ms ++ [.respond])
    (count : microTransports ms = scriptTransports as) :
    Completes s t (playEnd s.cfg s.x s.draws as) (playEvents s.cfg s.x s.draws as) 0 := by
  have answered := transportOk_of_safe h safe
  rw [e, microTransports_append] at answered
  obtain ⟨idle, -⟩ := exec_next h
  obtain ⟨u, hu, done, -⟩ := completes_of_performs performs e idle
    (by rw [← count]; exact transportOk_mono (Nat.le_add_right _ _) answered)
  cases h.symm.trans hu
  exact done

end

theorem microTransports_nibinitBody (c : Config) (n : Nibble) :
    microTransports (nibinitBody c n) = scriptTransports (nibinitScript c n) := by
  simp only [nibinitBody, latchBit, rmwBit_pin, scriptTransports_nibinit]
  rfl

theorem microTransports_sendByteBody (c : Config) (b : Byte) (m : Bool) :
    microTransports (sendByteBody c b m) = scriptTransports (sendScript c b m) := by
  simp only [sendByteBody, latchBit, rmwBit_pin, scriptTransports_send]
  rfl

end Sys2Proof.Machine
end

section
/-! PROOFS. O26 and O28: the latch that NIBBLE, NIBINIT and SENDBYTE leave (41_parallel_bus.md R141, R142, R145). -/

namespace Sys2Proof.Machine

/-! ## E is low -/

theorem nibbleImage_enable (p : PinMap) (v : Byte) (n : Nibble) : (nibbleImage p v n).getLsbD p.e.val = false :=
  getLsbD_setbit_self _ _ _

/-- A script that ends with E set low, and a wait, leaves E low. -/
theorem playEnd_latchPin_pause (c : Config) (x : Expander) (d : Nat) (as : List Act) (q : Fin 8) (l : Bool) (k : Nat) :
    (playEnd c x d (as ++ [.latchPin q.val l, .pause k])).latch.getLsbD q.val = l := by
  simp only [playEnd_append, playEnd, Act.after, gt_iff_lt, pin_not_above_seven, if_false, getLsbD_setbit_self]

theorem enable_after_nibinit (c : Config) (x : Expander) (d : Nat) (n : Nibble) :
    (playEnd c x d (nibinitScript c n)).latch.getLsbD c.pins.e.val = false :=
  playEnd_latchPin_pause c x d
    [.latchPin c.pins.db4.val (n.getLsbD 0), .latchPin c.pins.db5.val (n.getLsbD 1),
     .latchPin c.pins.db6.val (n.getLsbD 2), .latchPin c.pins.db7.val (n.getLsbD 3), .pause c.tInitNib,
     .latchPin c.pins.e.val false, .pause c.tInitNib, .latchPin c.pins.e.val true, .pause c.tInitNib]
    c.pins.e false c.tInitNib

theorem enable_after_send (c : Config) (x : Expander) (d : Nat) (b : Byte) (m : Bool) :
    (playEnd c x d (sendScript c b m)).latch.getLsbD c.pins.e.val = false :=
  nibbleImage_enable _ _ _

/-- Settles O26: each script ends with E set low, and the three writes of a nibble are its image with E low, high and
low. -/
theorem enableIsLowAfterEveryTransfer : Obligations.EnableIsLowAfterEveryTransfer := by
  rintro i s t (⟨n, rfl⟩ | ⟨n, rfl⟩ | ⟨b, m, rfl⟩) h safe
  · have done := completes_of_safe h safe (.nibble s.cfg n) rfl rfl
    have events := newEvents_of_completes done
    obtain ⟨-, -, -, -, -, x, -⟩ := done
    rw [x, events]
    exact ⟨nibbleImage_enable _ _ _, fun _ => ⟨_, _, _, _, rfl, nibbleImage_enable _ _ _, getLsbD_setbit_self _ _ _,
      nibbleImage_enable _ _ _, fun j hj => getLsbD_setbit_other _ _ hj⟩⟩
  · obtain ⟨-, -, -, -, -, x, -⟩ :=
      completes_of_safe h safe (.nibinit s.cfg n) rfl (microTransports_nibinitBody s.cfg n)
    rw [x]
    exact ⟨enable_after_nibinit _ _ _ _, fun ⟨_, e⟩ => nomatch e⟩
  · obtain ⟨-, -, -, -, -, x, -⟩ :=
      completes_of_safe h safe (.sendByte s.cfg b m) rfl (microTransports_sendByteBody s.cfg b m)
    rw [x]
    exact ⟨enable_after_send _ _ _ _ _, fun ⟨_, e⟩ => nomatch e⟩

/-! ## The other bits -/

theorem setbit_setbit (v : Byte) (p : Nat) (k l : Bool) : setbit (setbit v p k) p l = setbit v p l := by
  apply BitVec.eq_of_getLsbD_eq
  intro i _
  simp only [getLsbD_setbit]
  split <;> rfl

/-- Under `READ_MODEL = latch` the cold-start nibble leaves the expander where the steady nibble does
(41_parallel_bus.md R141, R142). -/
theorem playEnd_nibinit_of_latch {c : Config} (h : c.readModel = .latch) (x : Expander) (d : Nat) (n : Nibble) :
    playEnd c x d (nibinitScript c n) = playEnd c x d [.nib n] := by
  simp [nibinitScript, playEnd, Act.after, h, pin_not_above_seven, nibbleImage, placeNibble, setbit_setbit]

/-- Distinct pins, pair by pair, but for the backlight (00_scope.md R9). -/
theorem PinMap.distinct.ne {p : PinMap} (h : p.distinct = true) :
    (p.rs.val ≠ p.e.val ∧ p.db4.val ≠ p.e.val ∧ p.db5.val ≠ p.e.val ∧ p.db6.val ≠ p.e.val ∧ p.db7.val ≠ p.e.val) ∧
    (p.rs.val ≠ p.db4.val ∧ p.rs.val ≠ p.db5.val ∧ p.rs.val ≠ p.db6.val ∧ p.rs.val ≠ p.db7.val) ∧
    (p.db4.val ≠ p.db5.val ∧ p.db4.val ≠ p.db6.val ∧ p.db4.val ≠ p.db7.val) ∧
    (p.db5.val ≠ p.db6.val ∧ p.db5.val ≠ p.db7.val) ∧ p.db6.val ≠ p.db7.val := by
  simp only [PinMap.distinct, PinMap.positions, decide_eq_true_eq, List.nodup_cons, List.mem_cons, List.not_mem_nil,
    or_false, not_or, Fin.ext_iff] at h
  obtain ⟨-, ⟨re, r4, r5, r6, r7⟩, ⟨e4, e5, e6, e7⟩, ⟨d45, d46, d47⟩, ⟨d56, d57⟩, d67, -⟩ := h
  exact ⟨⟨re, Ne.symm e4, Ne.symm e5, Ne.symm e6, Ne.symm e7⟩, ⟨r4, r5, r6, r7⟩, ⟨d45, d46, d47⟩, ⟨d56, d57⟩, d67⟩

/-- With distinct pins the image carries the nibble on the data lines (41_parallel_bus.md R141). -/
theorem nibbleImage_data {p : PinMap} (h : p.distinct = true) (v : Byte) (n : Nibble) :
    (nibbleImage p v n).getLsbD p.db4.val = n.getLsbD 0 ∧ (nibbleImage p v n).getLsbD p.db5.val = n.getLsbD 1 ∧
    (nibbleImage p v n).getLsbD p.db6.val = n.getLsbD 2 ∧ (nibbleImage p v n).getLsbD p.db7.val = n.getLsbD 3 := by
  simp only [getLsbD_nibbleImage, PinMap.distinct.ne h, Fin.is_lt, and_self, and_false, if_true, if_false]

/-- Every other position but E keeps its value. -/
theorem nibbleImage_other {p : PinMap} {q : Fin 8} (h : q ∉ p.e :: dataPins p) (v : Byte) (n : Nibble) :
    (nibbleImage p v n).getLsbD q.val = v.getLsbD q.val := by
  simp only [dataPins, List.mem_cons, List.not_mem_nil, or_false, not_or, Fin.ext_iff] at h
  simp only [getLsbD_nibbleImage, h, and_false, if_false]

/-- Settles O28: both requests leave the latch at the nibble's image of the latch. -/
theorem nibblesKeepRsBacklightAndUnusedBit : Obligations.NibblesKeepRsBacklightAndUnusedBit := by
  intro n s i hi idle latch distinct ok
  have done : ∃ t, exec i s = .next t ∧ t.x = playEnd s.cfg s.x s.draws [.nib n] := by
    obtain rfl | rfl := hi
    · obtain ⟨t, h, ⟨-, -, -, -, -, x, -⟩, -⟩ :=
        exec_nibble_completes n idle (transportOk_mono (by decide : 4 ≤ 14) ok)
      exact ⟨t, h, x⟩
    · obtain ⟨t, h, ⟨-, -, -, -, -, x, -⟩, -⟩ := exec_nibinit_completes n idle ok
      exact ⟨t, h, x.trans (playEnd_nibinit_of_latch latch _ _ _)⟩
  obtain ⟨t, h, x⟩ := done
  rw [playEnd, playEnd, Act.after, latchRead_latch latch] at x
  obtain ⟨d4, d5, d6, d7⟩ := nibbleImage_data distinct s.x.latch n
  refine ⟨t, h, ?_⟩
  rw [x]
  exact ⟨rfl, d4, d5, d6, d7, fun q hq => nibbleImage_other hq _ _⟩

end Sys2Proof.Machine
end

section
/-! PROOFS. O56: the four cold-start nibbles resynchronise the LCD (41_parallel_bus.md R154, R156). Each capture is
followed from each interface state it can find; no byte among them is a clear-display, so the controller executes every
one. -/

namespace Sys2Proof.Machine

/-- The controller is in this interface state and has finished what it executed before (70_reset_and_hazards.md
R266). -/
def Lcd.At (l : Lcd) (i : LcdIf) : Prop := l.iface = i ∧ l.clearing = false

/-- A byte with the nibble 0x3 in either half is no clear-display (70_reset_and_hazards.md R266). -/
theorem isClear_three_high (n : Nibble) : isClear false (0x3#4 ++ n) = false := by
  revert n; decide

theorem isClear_three_low (n : Nibble) : isClear false (n ++ 0x3#4) = false := by
  revert n; decide

/-- A controller that has finished executes the byte that completes (41_parallel_bus.md R154). -/
theorem Lcd.complete_of_finished {l : Lcd} (h : l.clearing = false) (rs ready : Bool) (b : Byte) :
    l.complete rs ready b =
      { l with received := l.received ++ [(rs, b)], executed := l.executed ++ [(rs, b)],
               clearing := isClear rs b } := by
  simp only [Lcd.complete, Lcd.executes_of_not_clearing h, if_true]

section
variable {l : Lcd} {c : Capture} (rs : c.rs = false)
include rs

/-- In 8-bit mode the nibble 0x3 is a function set with DL = 1. -/
theorem Lcd.At.capture_three_eight (h : l.At .eight) (nib : c.nib = 0x3) : (l.capture c).At .eight := by
  obtain ⟨iface, finished⟩ := h
  rw [Lcd.capture_eight iface, Lcd.executes_of_not_clearing finished, Lcd.complete_of_finished (by exact finished),
    rs, nib]
  exact ⟨rfl, isClear_three_high c.low⟩

/-- In 8-bit mode the nibble 0x2 is a function set with DL = 0. -/
theorem Lcd.At.capture_two_eight (h : l.At .eight) (nib : c.nib = 0x2) : (l.capture c).iface = .fourHi := by
  obtain ⟨iface, finished⟩ := h
  rw [Lcd.capture_eight iface, Lcd.executes_of_not_clearing finished, rs, nib]
  rfl

omit rs in
theorem Lcd.At.capture_fourHi (h : l.At .fourHi) : (l.capture c).At (.fourLo c.nib) := by
  obtain ⟨iface, finished⟩ := h
  rw [Lcd.capture_fourHi iface]
  exact ⟨rfl, finished⟩

/-- The nibble 0x3 at the low half completes a byte, a function set with DL = 1 if its high half was 0x3. -/
theorem Lcd.At.capture_three_fourLo {hi : Nibble} (h : l.At (.fourLo hi)) (nib : c.nib = 0x3) :
    (l.capture c).At (if hi = 0x3#4 then .eight else .fourHi) := by
  obtain ⟨iface, finished⟩ := h
  rw [Lcd.capture_fourLo iface, Lcd.executes_of_not_clearing finished, Lcd.complete_of_finished (by exact finished),
    rs, nib]
  exact ⟨by simp [afterByte], isClear_three_low hi⟩

end

/-- Two nibbles 0x3 complete one function set with DL = 1 on an LCD that expects a high nibble. -/
theorem Lcd.At.capture_two_threes {l : Lcd} {a b : Capture} (h : l.At .fourHi) (ha : a.nib = 0x3)
    (hb : b.rs = false ∧ b.nib = 0x3) : ((l.capture a).capture b).At .eight := by
  obtain ⟨rs, nib⟩ := hb
  have stored := h.capture_fourHi (c := a)
  rw [ha] at stored
  exact stored.capture_three_fourLo rs nib

/-- Three nibbles 0x3 force 8-bit mode from any interface state (41_parallel_bus.md R156). -/
theorem Lcd.capture_three_threes {l : Lcd} {a b c : Capture} (finished : l.clearing = false)
    (ha : a.rs = false ∧ a.nib = 0x3) (hb : b.rs = false ∧ b.nib = 0x3) (hc : c.rs = false ∧ c.nib = 0x3) :
    (((l.capture a).capture b).capture c).At .eight := by
  obtain ⟨aRs, aNib⟩ := ha
  have ⟨bRs, bNib⟩ := hb
  have ⟨cRs, cNib⟩ := hc
  cases iface : l.iface with
  | eight =>
    have start : l.At .eight := ⟨iface, finished⟩
    exact ((start.capture_three_eight aRs aNib).capture_three_eight bRs bNib).capture_three_eight cRs cNib
  | fourHi =>
    have start : l.At .fourHi := ⟨iface, finished⟩
    exact (start.capture_two_threes aNib hb).capture_three_eight cRs cNib
  | fourLo hi =>
    have start : l.At (.fourLo hi) := ⟨iface, finished⟩
    have first := start.capture_three_fourLo aRs aNib
    by_cases three : hi = 0x3#4
    · rw [if_pos three] at first
      exact (first.capture_three_eight bRs bNib).capture_three_eight cRs cNib
    · rw [if_neg three] at first
      exact first.capture_two_threes bNib hc

/-- Settles O56: three nibbles 0x3 reach 8-bit mode, and the nibble 0x2 leaves it. -/
theorem coldStartNibblesResynchroniseTheLcd : Obligations.ColdStartNibblesResynchroniseTheLcd := by
  rintro l a b c d finished ha hb hc ⟨dRs, dNib⟩
  refine ⟨(Lcd.capture_three_threes finished ha hb hc).capture_two_eight dRs dNib, fun hi iface => ?_⟩
  obtain ⟨aRs, aNib⟩ := ha
  rw [Lcd.capture_fourLo iface, Lcd.complete_of_finished (by exact finished), aRs, aNib]
  exact ⟨rfl, rfl⟩

end Sys2Proof.Machine
end

section
/-! PROOFS. What the LCD observes of a driven expander, event by event and script by script (41_parallel_bus.md
R150–R155). While the LCD lines are outputs, nothing but a fall of E is captured, and the lines are settled there; so
the observation of a script is followed act by act, and that of a run request by request. -/

namespace Sys2Proof.Machine

/-! ## The events of a script account for the expander -/

section
variable {c : Config} (h : c.regDir ≠ c.regLatch) (x : Expander)
include h

theorem Expander.after_evWr_dir (v : Byte) : x.after c (evWr c.regDir v) = { x with dir := v } :=
  Expander.after_wr h x .dir v

theorem Expander.after_evWr_latch (v : Byte) : x.after c (evWr c.regLatch v) = { x with latch := v } :=
  Expander.after_wr h x .latch v

theorem Expander.after_evWb_dir (v : Byte) : x.after c (evWb c.regDir v) = { x with dir := v } :=
  Expander.after_wb h x .dir v

omit h in
@[simp] theorem Expander.after_evRd (r v : Byte) : x.after c (evRd r v) = x := rfl

omit h in
@[simp] theorem Expander.after_evWait (n : Nat) : x.after c (evWait n) = x := rfl

theorem Act.replay_events (n : Nat) (a : Act) : x.replay c (a.events c x n) = a.after c x n := by
  cases a with
  | dirAll b     => simp [Act.events, Act.after, Expander.replay, Expander.after_evWb_dir h]
  | latchAll b   => simp [Act.events, Act.after, Expander.replay, Expander.after_evWr_latch h]
  | dirPin p l   =>
    by_cases hp : p > 7 <;> simp [Act.events, Act.after, pinEvents, hp, Expander.replay, Expander.after_evWr_dir h]
  | latchPin p l =>
    by_cases hp : p > 7 <;> simp [Act.events, Act.after, pinEvents, hp, Expander.replay, Expander.after_evWr_latch h]
  | nib k        => simp [Act.events, Act.after, nibbleEvents, Expander.replay, Expander.after_evWr_latch h]
  | pause k      => simp [Act.events, Act.after, Expander.replay]

theorem replay_playEvents (d : Nat) (as : List Act) : x.replay c (playEvents c x d as) = playEnd c x d as := by
  induction as generalizing x d with
  | nil => rfl
  | cons a as ih => rw [playEvents, Expander.replay_append, Act.replay_events h, ih, playEnd]

end

/-! ## The expander that drives the LCD -/

/-- The LCD lines are outputs and E is low. -/
structure Drives (p : PinMap) (x : Expander) : Prop where
  output : ∀ q ∈ lcdPins p, x.dir.getLsbD q.val = false
  low    : x.latch.getLsbD p.e.val = false

section
variable {p : PinMap} {x : Expander}

theorem Drives.enable (h : Drives p x) : x.dir.getLsbD p.e.val = false := h.output _ (by simp [lcdPins])

/-- A write of the latch with E low. -/
theorem Drives.latch (h : Drives p x) {v : Byte} (hv : v.getLsbD p.e.val = false) : Drives p { x with latch := v } :=
  ⟨h.output, hv⟩

end

/-- A latch read shows the latch bit of an output pin, under either read model (20_memory.md R54). -/
theorem getLsbD_latchRead_output (c : Config) {x : Expander} (n : Nat) {i : Nat} (h : x.dir.getLsbD i = false) :
    (latchRead c x n).getLsbD i = x.latch.getLsbD i := by
  cases model : c.readModel with
  | latch => rw [latchRead_latch model]
  | port  => rw [latchRead_port model, getLsbD_portRead, h]; rfl

/-! ## One event -/

section
variable {c : Config} {x : Expander} (d : Nat → LcdDraw) (es : List Event) (l : Lcd)
  (out : x.dir.getLsbD c.pins.e.val = false)
include out

/-- While E is an output an event captures exactly when E falls (41_parallel_bus.md R151, R152). -/
theorem observe_cons_of_output {e : Event} (out' : (x.after c e).dir.getLsbD c.pins.e.val = false) :
    Lcd.observe c d x (e :: es) l =
      Lcd.observe c (fun n => d (n + 1)) (x.after c e) es
        ((if x.latch.getLsbD c.pins.e.val && !(x.after c e).latch.getLsbD c.pins.e.val then
          l.capture (edgeCapture c.pins x (x.after c e) (d 0).settle) else l).elapse c e) := by
  rw [Lcd.observe_cons, idleCaptures_of_output out, captures_of_output out out']
  split <;> rfl

theorem observe_rd (r v : Byte) :
    Lcd.observe c d x (evRd r v :: es) l = Lcd.observe c (fun n => d (n + 1)) x es l := by
  rw [observe_cons_of_output d es l out (by exact out)]
  simp [Lcd.elapse, evRd]

theorem observe_wait (k : Nat) :
    Lcd.observe c d x (evWait k :: es) l = Lcd.observe c (fun n => d (n + 1)) x es (l.elapse c (evWait k)) := by
  rw [observe_cons_of_output d es l out (by exact out)]
  simp

/-- A write of the latch while E is low captures nothing. -/
theorem observe_wr_of_low (regs : c.regDir ≠ c.regLatch) (low : x.latch.getLsbD c.pins.e.val = false) (v : Byte) :
    Lcd.observe c d x (evWr c.regLatch v :: es) l =
      Lcd.observe c (fun n => d (n + 1)) { x with latch := v } es l := by
  rw [observe_cons_of_output d es l out (by rw [Expander.after_evWr_latch regs]; exact out),
    Expander.after_evWr_latch regs, low]
  rfl

/-- A write of the latch that makes E fall captures (41_parallel_bus.md R151). -/
theorem observe_wr_fall (regs : c.regDir ≠ c.regLatch) (high : x.latch.getLsbD c.pins.e.val = true) {v : Byte}
    (low : v.getLsbD c.pins.e.val = false) :
    Lcd.observe c d x (evWr c.regLatch v :: es) l =
      Lcd.observe c (fun n => d (n + 1)) { x with latch := v } es
        (l.capture (edgeCapture c.pins x { x with latch := v } (d 0).settle)) := by
  rw [observe_cons_of_output d es l out (by rw [Expander.after_evWr_latch regs]; exact out),
    Expander.after_evWr_latch regs, high, low]
  rfl

theorem observe_nil_of_output : Lcd.observe c d x [] l = l := by
  rw [Lcd.observe_nil, idleCaptures_of_output out, Lcd.captureAll_nil]

end

/-- An observation is cut where E is an output, for nothing is captured there between two events. -/
theorem observe_append {c : Config} (es fs : List Event) (d : Nat → LcdDraw) {x : Expander} (l : Lcd)
    (out : (x.replay c es).dir.getLsbD c.pins.e.val = false) :
    Lcd.observe c d x (es ++ fs) l =
      Lcd.observe c (fun n => d (n + es.length)) (x.replay c es) fs (Lcd.observe c d x es l) := by
  induction es generalizing d x l with
  | nil => rw [observe_nil_of_output d l (by exact out)]; rfl
  | cons e es ih =>
    rw [List.cons_append, Lcd.observe_cons, ih (x := x.after c e) _ _ out, ← Lcd.observe_cons]
    rfl

/-- The observation of a script goes act by act while E is an output. -/
theorem observe_play_cons {c : Config} (regs : c.regDir ≠ c.regLatch) (d : Nat → LcdDraw) {x : Expander} (l : Lcd)
    {n : Nat} {a : Act} (as : List Act) (out : (a.after c x n).dir.getLsbD c.pins.e.val = false) :
    Lcd.observe c d x (playEvents c x n (a :: as)) l =
      Lcd.observe c (fun k => d (k + (a.events c x n).length)) (a.after c x n)
        (playEvents c (a.after c x n) (n + a.reads) as) (Lcd.observe c d x (a.events c x n) l) := by
  have replayed := Act.replay_events regs x n a
  rw [playEvents, observe_append _ _ _ _ (by rw [replayed]; exact out), replayed]

/-! ## The capture of a strobe -/

/-- An output whose latch bit an event leaves is settled at its fall (41_parallel_bus.md R151, R153). -/
theorem sample_of_settled {x y : Expander} {q : Fin 8} (hx : x.dir.getLsbD q.val = false)
    (hy : y.dir.getLsbD q.val = false) (same : x.latch.getLsbD q.val = y.latch.getLsbD q.val) (draw : Bool) :
    sample (pinLevel x q) (pinLevel y q) draw = y.latch.getLsbD q.val := by
  rw [pinLevel_of_output hx, pinLevel_of_output hy, same]
  cases y.latch.getLsbD q.val <;> rfl

theorem nibbleOf_getLsbD (n : Nibble) : nibbleOf (n.getLsbD 3) (n.getLsbD 2) (n.getLsbD 1) (n.getLsbD 0) = n := by
  revert n; decide

theorem PinMap.distinct.rs_not_mem {p : PinMap} (h : p.distinct = true) : p.rs ∉ p.e :: dataPins p := by
  obtain ⟨⟨re, -⟩, ⟨r4, r5, r6, r7⟩, -⟩ := PinMap.distinct.ne h
  simp [dataPins, Fin.ext_iff, re, r4, r5, r6, r7]

/-- When E alone falls from a nibble's image, the LCD takes the nibble and the RS line, whatever the draw
(41_parallel_bus.md R141, R151). -/
theorem edgeCapture_nibbleImage {p : PinMap} {x : Expander} (out : ∀ q ∈ lcdPins p, x.dir.getLsbD q.val = false)
    (distinct : p.distinct = true) (v : Byte) (n : Nibble) (k : Capture) :
    edgeCapture p { x with latch := setbit (nibbleImage p v n) p.e.val true } { x with latch := nibbleImage p v n } k =
      { rs := v.getLsbD p.rs.val, nib := n, low := k.low, ready := k.ready } := by
  have settled : ∀ q ∈ lcdPins p, q.val ≠ p.e.val → ∀ draw,
      sample (pinLevel { x with latch := setbit (nibbleImage p v n) p.e.val true } q)
        (pinLevel { x with latch := nibbleImage p v n } q) draw = (nibbleImage p v n).getLsbD q.val :=
    fun q hq ne => sample_of_settled (x := { x with latch := setbit (nibbleImage p v n) p.e.val true })
      (y := { x with latch := nibbleImage p v n }) (out q hq) (out q hq) (getLsbD_setbit_other _ _ ne)
  obtain ⟨⟨re, ne4, ne5, ne6, ne7⟩, -⟩ := PinMap.distinct.ne distinct
  obtain ⟨d4, d5, d6, d7⟩ := nibbleImage_data distinct v n
  rw [edgeCapture, settled p.rs (by simp [lcdPins]) re, settled p.db4 (by simp [lcdPins]) ne4,
    settled p.db5 (by simp [lcdPins]) ne5, settled p.db6 (by simp [lcdPins]) ne6,
    settled p.db7 (by simp [lcdPins]) ne7, d4, d5, d6, d7, nibbleOf_getLsbD,
    nibbleImage_other (PinMap.distinct.rs_not_mem distinct)]

/-! ## A nibble -/

/-- `l'` is `l` after some time: a clear-display may have ended, and nothing else happened. -/
structure Lcd.Waits (l l' : Lcd) : Prop where
  iface    : l'.iface = l.iface
  captured : l'.captured = l.captured
  received : l'.received = l.received
  executed : l'.executed = l.executed
  finished : l.clearing = false → l'.clearing = false

theorem Lcd.Waits.elapse (c : Config) (l : Lcd) (e : Event) : l.Waits (l.elapse c e) where
  iface    := Lcd.elapse_iface c l e
  captured := Lcd.elapse_captured c l e
  received := Lcd.elapse_received c l e
  executed := Lcd.elapse_executed c l e
  finished h := (Lcd.elapse_clearing c l e).elim (fun kept => kept.trans h) id

theorem Lcd.Waits.trans {l₁ l₂ l₃ : Lcd} (h : l₁.Waits l₂) (k : l₂.Waits l₃) : l₁.Waits l₃ where
  iface      := k.iface.trans h.iface
  captured   := k.captured.trans h.captured
  received   := k.received.trans h.received
  executed   := k.executed.trans h.executed
  finished f := k.finished (h.finished f)

/-- `l'` is `l` after one capture and some time before and after it. -/
def Lcd.Strobed (l l' : Lcd) (k : Capture) : Prop := ∃ l₁, l.Waits l₁ ∧ (l₁.capture k).Waits l'

section
variable {l l' : Lcd} {k : Capture}

/-- At the high half the capture stores its nibble (41_parallel_bus.md R154). -/
theorem Lcd.Strobed.high (h : l.Strobed l' k) (iface : l.iface = .fourHi) :
    ({ l with captured := l.captured ++ [k], iface := .fourLo k.nib } : Lcd).Waits l' := by
  obtain ⟨l₁, before, after⟩ := h
  rw [Lcd.capture_fourHi (before.iface.trans iface)] at after
  exact ⟨after.iface, by rw [after.captured, before.captured], after.received.trans before.received,
    after.executed.trans before.executed, fun f => after.finished (before.finished f)⟩

/-- At the low half the capture completes the byte, which the controller executes or not (41_parallel_bus.md R154,
70_reset_and_hazards.md R266). -/
theorem Lcd.Strobed.low (h : l.Strobed l' k) {hi : Nibble} (iface : l.iface = .fourLo hi) :
    ∃ done : Bool, (l.clearing = false → done = true) ∧ l'.iface = afterByte done k.rs hi ∧
      l'.captured = l.captured ++ [k] ∧ l'.received = l.received ++ [(k.rs, hi ++ k.nib)] ∧
      l'.executed = l.executed ++ if done then [(k.rs, hi ++ k.nib)] else [] := by
  obtain ⟨l₁, before, after⟩ := h
  rw [Lcd.capture_fourLo (before.iface.trans iface)] at after
  refine ⟨l₁.executes k.ready, fun f => Lcd.executes_of_not_clearing (before.finished f) _, after.iface,
    by rw [after.captured, ← before.captured]; rfl, by rw [after.received, ← before.received]; rfl, ?_⟩
  rw [after.executed, ← before.executed, Lcd.complete]
  show (if l₁.executes k.ready then _ else _) = _
  cases l₁.executes k.ready <;> simp

end

/-! ## A byte -/

/-- `l'` is `l` after the byte `b` under RS = `m`, in the captures `c₁` and `c₂`; `done` is whether the controller
executed it (41_parallel_bus.md R154, R155; 70_reset_and_hazards.md R266). -/
structure Lcd.Delivered (l l' : Lcd) (m : Bool) (b : Byte) (c₁ c₂ : Capture) (done : Bool) : Prop where
  received : l'.received = l.received ++ [(m, b)]
  captured : l'.captured = l.captured ++ [c₁, c₂]
  high     : c₁.rs = m ∧ c₁.nib = highNibble b
  low      : c₂.rs = m ∧ c₂.nib = lowNibble b
  finished : l.clearing = false → done = true
  executed : l'.executed = l.executed ++ if done then [(m, b)] else []
  iface    : l'.iface = afterByte done m (highNibble b)

theorem highNibble_append_lowNibble (b : Byte) : highNibble b ++ lowNibble b = b := by
  revert b; decide

/-- The two nibbles of a byte, strobed one after the other, deliver it. -/
theorem Lcd.Delivered.of_strobes {l l₁ l₂ : Lcd} {m : Bool} {b : Byte} {c₁ c₂ : Capture} (start : l.iface = .fourHi)
    (first : l.Strobed l₁ c₁) (high : c₁.rs = m ∧ c₁.nib = highNibble b)
    (second : l₁.Strobed l₂ c₂) (low : c₂.rs = m ∧ c₂.nib = lowNibble b) : ∃ done, l.Delivered l₂ m b c₁ c₂ done := by
  have ⟨_, highNib⟩ := high
  have ⟨lowRs, lowNib⟩ := low
  have stored := first.high start
  obtain ⟨done, finished, iface, captured, received, executed⟩ := second.low stored.iface
  rw [lowRs, highNib, lowNib, highNibble_append_lowNibble] at received executed
  rw [lowRs, highNib] at iface
  exact ⟨done, by rw [received, stored.received], by rw [captured, stored.captured]; simp, high, low,
    fun f => finished (stored.finished f), by rw [executed, stored.executed], iface⟩

section
variable {c : Config} (regs : c.regDir ≠ c.regLatch) (distinct : c.pins.distinct = true) {x : Expander}
  (drives : Drives c.pins x) (d : Nat → LcdDraw) (l : Lcd)

include drives

/-- A latch read shows E low. -/
theorem Drives.latchRead_low (n : Nat) : (latchRead c x n).getLsbD c.pins.e.val = false := by
  rw [getLsbD_latchRead_output c n drives.enable, drives.low]

theorem Drives.after_nib (r : Nat) (n : Nibble) : Drives c.pins ((Act.nib n).after c x r) :=
  drives.latch (nibbleImage_enable _ _ _)

include distinct

theorem Drives.after_rs (r : Nat) (m : Bool) : Drives c.pins ((Act.latchPin c.pins.rs.val m).after c x r) := by
  obtain ⟨⟨re, -⟩, -⟩ := PinMap.distinct.ne distinct
  rw [Act.after, if_neg (pin_not_above_seven _)]
  refine drives.latch ?_
  rw [getLsbD_setbit_other _ _ (Ne.symm re), drives.latchRead_low]

theorem Drives.after_send (n : Nat) (b : Byte) (m : Bool) : Drives c.pins (playEnd c x n (sendScript c b m)) :=
  ((drives.after_rs distinct n m).after_nib _ _).after_nib _ _

include regs

omit distinct in
/-- Setting RS captures nothing, for E stays low. -/
theorem observe_rs (r : Nat) (m : Bool) :
    Lcd.observe c d x ((Act.latchPin c.pins.rs.val m).events c x r) l = l := by
  have out := drives.enable
  rw [Act.events, pinEvents_pin, observe_rd _ _ _ out, observe_wr_of_low _ _ _ out regs drives.low,
    observe_nil_of_output _ _ (by exact out)]

/-- A nibble makes one capture: itself, under the RS line as it stands (41_parallel_bus.md R141, R151). -/
theorem observe_nib (r : Nat) (n : Nibble) : ∃ k : Capture, (k.rs = x.latch.getLsbD c.pins.rs.val ∧ k.nib = n) ∧
    l.Strobed (Lcd.observe c d x ((Act.nib n).events c x r) l) k := by
  have out := drives.enable
  have low := nibbleImage_enable c.pins (latchRead c x r) n
  have high := getLsbD_setbit_self (nibbleImage c.pins (latchRead c x r) n) c.pins.e true
  have rs := getLsbD_latchRead_output c r (drives.output c.pins.rs (by simp [lcdPins]))
  have waited := (Lcd.Waits.elapse c l (evWait c.tSetup)).trans (.elapse c _ (evWait c.tPulse))
  refine ⟨{ rs := _, nib := n, low := (d 5).settle.low, ready := (d 5).settle.ready }, ⟨rs, rfl⟩, _, waited, ?_⟩
  rw [Act.events, nibbleEvents, observe_rd _ _ _ out, observe_wr_of_low _ _ _ out regs drives.low,
    observe_wait _ _ _ (by exact out), observe_wr_of_low _ _ _ (by exact out) regs (by exact low),
    observe_wait _ _ _ (by exact out), observe_wr_fall _ _ _ (by exact out) regs (by exact high) low,
    observe_wait _ _ _ (by exact out), observe_nil_of_output _ _ (by exact out),
    edgeCapture_nibbleImage drives.output distinct]
  exact .elapse c _ _

/-- The two nibbles of a byte deliver it under the RS line as it stands (41_parallel_bus.md R154). -/
theorem observe_nibbles (n : Nat) (b : Byte) (start : l.iface = .fourHi) :
    ∃ c₁ c₂ done, l.Delivered (Lcd.observe c d x (playEvents c x n [.nib (highNibble b), .nib (lowNibble b)]) l)
      (x.latch.getLsbD c.pins.rs.val) b c₁ c₂ done := by
  have afterHigh := drives.after_nib n (highNibble b)
  have rs : ((Act.nib (highNibble b)).after c x n).latch.getLsbD c.pins.rs.val = x.latch.getLsbD c.pins.rs.val := by
    rw [Act.after, nibbleImage_other (PinMap.distinct.rs_not_mem distinct),
      getLsbD_latchRead_output c n (drives.output c.pins.rs (by simp [lcdPins]))]
  obtain ⟨c₁, high, first⟩ := observe_nib regs distinct drives d l n (highNibble b)
  rw [observe_play_cons regs _ _ _ afterHigh.enable]
  generalize Lcd.observe c d x _ l = l₁ at first ⊢
  generalize (fun k => d (k + _)) = d₁
  generalize n + Act.reads _ = n₁
  obtain ⟨c₂, low, second⟩ := observe_nib regs distinct afterHigh d₁ l₁ n₁ (lowNibble b)
  rw [rs] at low
  have out := (afterHigh.after_nib n₁ (lowNibble b)).enable
  rw [observe_play_cons regs _ _ _ out, playEvents, observe_nil_of_output _ _ out]
  exact ⟨c₁, c₂, Lcd.Delivered.of_strobes start first high second low⟩

/-- SENDBYTE's script delivers its byte to an LCD that expects a high nibble (41_parallel_bus.md R155). -/
theorem observe_send (n : Nat) (b : Byte) (m : Bool) (start : l.iface = .fourHi) :
    ∃ c₁ c₂ done, l.Delivered (Lcd.observe c d x (playEvents c x n (sendScript c b m)) l) m b c₁ c₂ done := by
  have afterRs := drives.after_rs distinct n m
  have rs : ((Act.latchPin c.pins.rs.val m).after c x n).latch.getLsbD c.pins.rs.val = m := by
    rw [Act.after, if_neg (pin_not_above_seven _)]
    exact getLsbD_setbit_self _ _ _
  rw [sendScript, observe_play_cons regs _ _ _ afterRs.enable, observe_rs regs drives]
  generalize (fun k => d (k + _)) = d₁
  generalize n + Act.reads _ = n₁
  have delivered := observe_nibbles regs distinct afterRs d₁ l n₁ b start
  rwa [rs] at delivered

end

end Sys2Proof.Machine
end

section
/-! PROOFS. O57 and O59: SENDBYTE delivers exactly its byte (41_parallel_bus.md R155), and a run of SENDCMD and SENDCHAR
exactly its bytes, in order (43_host_operations.md R211). -/

namespace Sys2Proof.Machine

theorem Config.wellFormed.distinct {c : Config} (h : c.wellFormed = true) : c.pins.distinct = true := by
  simp only [Config.wellFormed, Bool.and_eq_true] at h
  obtain ⟨⟨⟨distinct, -⟩, -⟩, -⟩ := h
  exact distinct

/-! ## One byte -/

section
variable {i : Instr} {s : State} {b : Byte} {m : Bool} (e : expansionOf s i = sendByteBody s.cfg b m ++ [.respond])
include e

theorem failures_of_send {t : State} (h : exec i s = .next t) (idle : t.phase = .idle) :
    t.failures = consumeDraws 10 s.failures := by
  have safe : t.Safe := by rw [State.Safe, idle]; decide
  rw [failures_of_safe h safe, e, microTransports_append, microTransports_sendByteBody, scriptTransports_send]
  rfl

/-- A request that sends a byte on an expander that drives the LCD: it completes with the expander driving the LCD,
takes ten draws of the transport, and its events deliver the byte to an LCD that expects a high nibble. -/
theorem exec_send_delivers (idle : s.phase = .idle) (ok : transportOk 10 s.failures = true)
    (wf : s.cfg.wellFormed = true) (drives : Drives s.cfg.pins s.x) :
    ∃ t es, exec i s = .next t ∧ Completes s t (s.x.replay s.cfg es) es 0 ∧ Drives s.cfg.pins (s.x.replay s.cfg es) ∧
      t.failures = consumeDraws 10 s.failures ∧
      ∀ (d : Nat → LcdDraw) (l : Lcd), l.iface = .fourHi →
        ∃ c₁ c₂ done, l.Delivered (Lcd.observe s.cfg d s.x es l) m b c₁ c₂ done := by
  have regs := Config.wellFormed.regs_ne wf
  have distinct := Config.wellFormed.distinct wf
  obtain ⟨t, h, completes, -⟩ := exec_send_completes e idle ok
  have ⟨tIdle, _⟩ := completes
  refine ⟨t, playEvents s.cfg s.x s.draws (sendScript s.cfg b m), h, ?_, ?_, failures_of_send e h tIdle,
    fun d l start => observe_send regs distinct drives d l _ b m start⟩ <;> rw [replay_playEvents regs]
  · exact completes
  · exact drives.after_send distinct _ b m

end

/-- Settles O57: the events of SENDBYTE are its script's, and the script delivers the byte. -/
theorem sendbyteDeliversExactlyTheByte : Obligations.SendbyteDeliversExactlyTheByte := by
  intro b m s d l idle ok wf output low start
  obtain ⟨t, es, h, completes, -, -, delivers⟩ :=
    exec_send_delivers (i := .sendbyte b m) rfl idle ok wf ⟨output, low⟩
  obtain ⟨c₁, c₂, done, delivered⟩ := delivers d l start
  obtain ⟨rs₁, nib₁⟩ := delivered.high
  obtain ⟨rs₂, nib₂⟩ := delivered.low
  refine ⟨t, c₁, c₂, done, h, ?_⟩
  rw [newEvents_of_completes completes]
  exact ⟨delivered.received, delivered.captured, rs₁, nib₁, rs₂, nib₂, delivered.finished, delivered.executed,
    delivered.iface⟩

/-! ## A run of bytes -/

/-- The request that sends a byte under an RS (42_controller.md R171, R172). -/
def byteRequest (p : Byte × Bool) : Instr := if p.2 then .sendchar p.1 else .sendcmd p.1

theorem expansionOf_byteRequest (s : State) (p : Byte × Bool) :
    expansionOf s (byteRequest p) = sendByteBody s.cfg p.1 p.2 ++ [.respond] := by
  obtain ⟨b, _ | _⟩ := p <;> rfl

/-- Only an executed function set with DL = 1 leaves 4-bit mode (41_parallel_bus.md R154). -/
theorem afterByte_of_not_eight {m : Bool} {hi : Nibble} (h : m = true ∨ hi ≠ 0x3#4) (done : Bool) :
    afterByte done m hi = .fourHi := by
  obtain rfl | ne := h
  · simp [afterByte]
  · simp [afterByte, ne]

/-- A run of bytes that leave the LCD in 4-bit mode, by induction on the bytes: each request delivers its byte, and
leaves the LCD expecting a high nibble and the expander driving it. -/
theorem observe_run (bytes : List (Byte × Bool)) {s : State} (d : Nat → LcdDraw) {l : Lcd} (idle : s.phase = .idle)
    (ok : transportOk (10 * bytes.length) s.failures = true) (wf : s.cfg.wellFormed = true)
    (drives : Drives s.cfg.pins s.x) (start : l.iface = .fourHi)
    (hb : ∀ p ∈ bytes, p.2 = true ∨ highNibble p.1 ≠ 0x3#4) :
    ∃ t es, execAll (bytes.map byteRequest) s = .next t ∧ t.phase = .idle ∧ t.trace = s.trace ++ es ∧
      (Lcd.observe s.cfg d s.x es l).received = l.received ++ bytes.map (fun p => (p.2, p.1)) := by
  induction bytes generalizing s d l with
  | nil => exact ⟨s, [], rfl, idle, by simp, by rw [observe_nil_of_output _ _ drives.enable]; simp⟩
  | cons p ps ih =>
    obtain ⟨hp, hps⟩ := List.forall_mem_cons.mp hb
    rw [List.length_cons, Nat.mul_add_one, Nat.add_comm] at ok
    obtain ⟨u, es, hu, ⟨uIdle, -, -, cfg, -, x, trace, -⟩, uDrives, failures, delivers⟩ :=
      exec_send_delivers (expansionOf_byteRequest s p) idle (transportOk_mono (Nat.le_add_right _ _) ok) wf drives
    obtain ⟨c₁, c₂, done, delivered⟩ := delivers d l start
    have rest : transportOk (10 * ps.length) u.failures = true := by
      rw [failures]; exact transportOk_consume _ _ _ ok
    obtain ⟨t, fs, ht, tIdle, more, received⟩ := ih (fun k => d (k + es.length)) uIdle rest (by rwa [cfg])
      (by rwa [cfg, x]) (delivered.iface.trans (afterByte_of_not_eight hp done)) hps
    refine ⟨t, es ++ fs, by simp only [List.map_cons, execAll, hu, ht], tIdle,
      by rw [more, trace, List.append_assoc], ?_⟩
    rw [cfg, x] at received
    rw [observe_append _ _ _ _ uDrives.enable, received, delivered.received]
    simp

/-- Settles O59: the new events of the run are those of its requests, one after the other. -/
theorem aRunOfBytesIsDeliveredInOrder : Obligations.ARunOfBytesIsDeliveredInOrder := by
  intro bytes s d l idle ok wf output low start hb
  obtain ⟨t, es, h, tIdle, trace, received⟩ := observe_run bytes d idle ok wf ⟨output, low⟩ start hb
  refine ⟨t, h, tIdle, ?_⟩
  rw [newEvents, trace, List.drop_left]
  exact received

end Sys2Proof.Machine
end

section
/-! PROOFS. O33: the cold start runs exactly once (42_controller.md R177). What a request that ended without a fault
emitted is counted off its expansion; a run of requests is followed by induction on the list. -/

namespace Sys2Proof.Machine

/-! ## The events of an expansion -/

/-- The events that a list of statements emits when it runs to its end, one for each primitive (10_state.md R27,
R31). -/
def microEvents (ms : List Micro) : Nat := ms.countP Micro.isPrimitive

@[simp] theorem microEvents_append (ms ns : List Micro) : microEvents (ms ++ ns) = microEvents ms + microEvents ns :=
  List.countP_append

/-- A run that is still BUSY emitted one event for each of its primitives. -/
theorem trace_length_of_run_busy {s : State} {ms : List Micro} (h : (s.run ms).phase = .busy) :
    (s.run ms).trace.length = s.trace.length + microEvents ms := by
  induction ms generalizing s with
  | nil => rfl
  | cons m ms ih =>
    have alive : (s.perform m).phase = .busy := busy_of_run_append (ms := [m]) h
    have busy : s.phase = .busy := busy_of_run_append (ms := []) (ns := [m]) alive
    rw [run_cons, ih h, perform_trace_length busy, microEvents, microEvents, List.countP_cons]
    omega

theorem trace_length_of_safe {i : Instr} {s t : State} (h : exec i s = .next t) (safe : t.Safe) :
    t.trace.length = s.trace.length + microEvents (expansionOf s i) := by
  have busy := run_busy_of_safe h safe
  obtain ⟨-, rfl⟩ := exec_next h
  rw [complete_busy busy]
  exact trace_length_of_run_busy busy

section
variable (c : Config)

theorem microEvents_rmwBit (r : Reg) (p : Nat) (l : Bool) : microEvents (rmwBit r p l) = if p > 7 then 0 else 2 := by
  unfold rmwBit
  split <;> rfl

theorem microEvents_nibinitBody (n : Nibble) : microEvents (nibinitBody c n) = 18 := by
  simp only [nibinitBody, latchBit, rmwBit_pin]
  rfl

theorem microEvents_sendByteBody (b : Byte) (m : Bool) : microEvents (sendByteBody c b m) = 16 := by
  simp only [sendByteBody, latchBit, rmwBit_pin]
  rfl

theorem microEvents_clearExtra : microEvents (clearExtra c) = extraEvents c := by
  unfold clearExtra extraEvents
  obtain h | h := Nat.eq_zero_or_pos c.tClearExtra
  · rw [h]; rfl
  · rw [if_pos h, if_neg (Nat.ne_of_gt h)]; rfl

theorem microEvents_spaces (n : Nat) : microEvents (spaces c n) = 16 * n := by
  induction n with
  | zero => rfl
  | succ n ih => rw [spaces, microEvents_append, microEvents_sendByteBody, ih]; omega

theorem microEvents_coldUnpowered : microEvents (coldUnpowered c) = 22 := by
  simp only [coldUnpowered, latchBit, dirBit, rmwBit_pin]
  rfl

/-- The cold start emits its 194 events and the optional wait (42_controller.md R174). -/
theorem microEvents_coldStart : microEvents (coldStart c) = coldEvents c := by
  have label : ∀ st, microEvents [.enter st] = 0 := fun _ => rfl
  have wait : ∀ n, microEvents [.wait n] = 1 := fun _ => rfl
  have ready : microEvents [.enter .ready, .setInitialized] = 0 := rfl
  have nothing : microEvents [] = 0 := rfl
  simp only [coldStart, coldForced8bit, coldSwitchTo4bit, coldConfigured, List.flatten_cons, List.flatten_nil,
    microEvents_append, microEvents_coldUnpowered, microEvents_nibinitBody, microEvents_sendByteBody,
    microEvents_clearExtra, label, wait, ready, nothing, coldEvents]
  omega

end

theorem microEvents_ensureInitialized (s : State) :
    microEvents (ensureInitialized s) = if s.initialized then 0 else coldEvents s.cfg := by
  unfold ensureInitialized
  split
  · rfl
  · exact microEvents_coldStart s.cfg

/-- The cold start's events that a request emits before its own (42_controller.md R176, R177). -/
def coldShare (c : Config) (initialized : Bool) (needed : Bool) : Nat :=
  if !initialized && needed then coldEvents c else 0

/-- A request emits its events on an initialised block, and the cold start's if it has to run it. -/
theorem microEvents_expansionOf {s : State} (columns : s.cfg.columns = 16) (i : Instr) :
    microEvents (expansionOf s i) = eventsOf s.cfg i + coldShare s.cfg s.initialized (ensuresInit i) := by
  have answer : microEvents [.respond] = 0 := rfl
  have record : ∀ l, microEvents [.setLine l] = 0 := fun _ => rfl
  have cold : microEvents (ensureInitialized s) = coldShare s.cfg s.initialized true := by
    rw [microEvents_ensureInitialized, coldShare]
    cases s.initialized <;> rfl
  have free : coldShare s.cfg s.initialized false = 0 := by rw [coldShare, Bool.and_false]; rfl
  cases i with
  | setdir | rdlatch | wrlatch | nibble => rw [ensuresInit, free]; rfl
  | pinmode p l | wrpin p l =>
    rw [expansionOf, microEvents_append, answer, ensuresInit, free]
    exact microEvents_rmwBit _ p l
  | nibinit n => rw [expansionOf, microEvents_append, microEvents_nibinitBody, answer, ensuresInit, free]; rfl
  | sendbyte | sendcmd | sendchar | setcursor =>
    rw [expansionOf, microEvents_append, microEvents_sendByteBody, answer, ensuresInit, free]; rfl
  | linesel | lineselCur =>
    rw [expansionOf, lineselBody, microEvents_append, microEvents_append, microEvents_sendByteBody, record, answer,
      ensuresInit, free]
    rfl
  | init => rw [expansionOf, microEvents_append, cold, answer, eventsOf, ensuresInit]; omega
  | clear =>
    simp only [expansionOf, clearBody, microEvents_append, cold, microEvents_sendByteBody, microEvents_clearExtra,
      answer, eventsOf, ensuresInit]
    omega
  | clearline l =>
    simp only [expansionOf, clearlineBody, lineselBody, microEvents_append, cold, microEvents_sendByteBody,
      microEvents_spaces, columns, record, answer, eventsOf, ensuresInit]
    omega

/-! ## The session flag -/

/-- A run that reaches its end has set the flag if one of its statements sets it. -/
theorem run_initialized_of_mem {s : State} {ms : List Micro} (h : (s.run ms).phase = .busy)
    (hm : Micro.setInitialized ∈ ms) : (s.run ms).initialized = true := by
  obtain ⟨as, bs, rfl⟩ := List.append_of_mem hm
  have reached : (s.run as).phase = .busy := busy_of_run_append h
  rw [run_append, run_cons]
  exact run_initialized_mono bs (by rw [perform_busy reached]; rfl)

/-- A request that needs the cold start begins with it on a block that is not initialised (42_controller.md R176). -/
theorem expansionOf_of_cold {s : State} {i : Instr} (cold : s.initialized = false) (needs : ensuresInit i = true) :
    ∃ rest, expansionOf s i = coldStart s.cfg ++ rest := by
  have check : ensureInitialized s = coldStart s.cfg := by rw [ensureInitialized, cold]; rfl
  obtain rfl | rfl | ⟨l, rfl⟩ := eq_of_ensuresInit needs
  · exact ⟨[.respond], by rw [expansionOf, check]⟩
  · exact ⟨clearBody s.cfg ++ [.respond], by rw [expansionOf, check, List.append_assoc]⟩
  · exact ⟨clearlineBody s.cfg l ++ [.respond], by rw [expansionOf, check, List.append_assoc]⟩

/-- A request without a fault leaves the block initialised if it was, or if the request needs it to be (10_state.md
R22, 42_controller.md R176). -/
theorem initialized_of_safe {i : Instr} {s t : State} (h : exec i s = .next t) (safe : t.Safe) :
    t.initialized = (s.initialized || ensuresInit i) := by
  cases cold : s.initialized with
  | true => exact exec_initialized_mono h cold
  | false =>
    cases needs : ensuresInit i with
    | false => rw [exec_initialized_of_not_ensuresInit h needs, cold]; rfl
    | true =>
      have busy := run_busy_of_safe h safe
      obtain ⟨-, rfl⟩ := exec_next h
      obtain ⟨rest, e⟩ := expansionOf_of_cold cold needs
      rw [complete_initialized]
      exact run_initialized_of_mem busy (by rw [e, coldStart_eq]; simp)

/-! ## A run of requests -/

/-- `t` is `s` after the requests `is` without a fault, in the parameters, the session flag and the number of events. -/
structure Served (s t : State) (is : List Instr) : Prop where
  cfg         : t.cfg = s.cfg
  initialized : t.initialized = (s.initialized || is.any ensuresInit)
  events      : t.trace.length = s.trace.length +
    ((is.map (eventsOf s.cfg)).sum + coldShare s.cfg s.initialized (is.any ensuresInit))

theorem Served.exec {i : Instr} {s t : State} (columns : s.cfg.columns = 16) (h : exec i s = .next t) (safe : t.Safe) :
    Served s t [i] where
  cfg         := (Grows.exec h).cfg
  initialized := by simpa using initialized_of_safe h safe
  events      := by simpa using (trace_length_of_safe h safe).trans (by rw [microEvents_expansionOf columns])

/-- The cold start's share falls to the first part that needs it. -/
theorem coldShare_or (c : Config) (initialized first later : Bool) :
    coldShare c initialized (first || later) =
      coldShare c initialized first + coldShare c (initialized || first) later := by
  cases initialized <;> cases first <;> cases later <;> simp [coldShare]

theorem Served.trans {s u t : State} {is js : List Instr} (h : Served s u is) (k : Served u t js) :
    Served s t (is ++ js) where
  cfg         := k.cfg.trans h.cfg
  initialized := by rw [k.initialized, h.initialized, List.any_append, Bool.or_assoc]
  events      := by
    rw [k.events, h.events, h.cfg, h.initialized, List.any_append, coldShare_or, List.map_append, List.sum_append]
    omega

/-- A run goes request by request. -/
theorem execAll_cons {i : Instr} {is : List Instr} {s t : State} (h : execAll (i :: is) s = .next t) :
    ∃ u, exec i s = .next u ∧ execAll is u = .next t := by
  rw [execAll] at h
  cases e : exec i s with
  | next u    => rw [e] at h; exact ⟨u, rfl, h⟩
  | fault r   => rw [e] at h; cases h
  | refused r => rw [e] at h; cases h

theorem execAll_append {is js : List Instr} {s t : State} (h : execAll (is ++ js) s = .next t) :
    ∃ u, execAll is s = .next u ∧ execAll js u = .next t := by
  induction is generalizing s with
  | nil => exact ⟨s, rfl, h⟩
  | cons i is ih =>
    obtain ⟨v, first, rest⟩ := execAll_cons h
    obtain ⟨u, before, after⟩ := ih rest
    exact ⟨u, by rw [execAll, first]; exact before, after⟩

/-- No request is accepted after a fault, so a run that ended without one met none (60_exceptions.md R229). -/
theorem safe_of_execAll {is : List Instr} {s t : State} (h : execAll is s = .next t) (safe : t.Safe) : s.Safe := by
  cases is with
  | nil => cases h; exact safe
  | cons i is =>
    obtain ⟨u, first, -⟩ := execAll_cons h
    obtain ⟨idle, -⟩ := exec_next first
    rw [State.Safe, idle]
    decide

theorem Served.execAll {is : List Instr} {s t : State} (columns : s.cfg.columns = 16) (h : execAll is s = .next t)
    (safe : t.Safe) : Served s t is := by
  induction is generalizing s with
  | nil => cases h; exact ⟨rfl, by simp, by simp [coldShare]⟩
  | cons i is ih =>
    obtain ⟨u, first, rest⟩ := execAll_cons h
    have one := Served.exec columns first (safe_of_execAll rest safe)
    exact one.trans (ih (by rw [one.cfg, columns]) rest)

theorem Served.newEvents_length {is : List Instr} {s t : State} (h : Served s t is) :
    (newEvents s t).length =
      (is.map (eventsOf s.cfg)).sum + coldShare s.cfg s.initialized (is.any ensuresInit) := by
  rw [newEvents, List.length_drop, h.events, Nat.add_sub_cancel_left]

/-! ## The cold start at the head of a request -/

theorem microTransports_coldPrimitives (c : Config) : microTransports (coldPrimitives c) = 137 := by
  have extra : microTransports (clearExtra c) = 0 := by unfold clearExtra; split <;> rfl
  have unpowered : microTransports (coldUnpowered c) = 21 := by
    simp only [coldUnpowered, latchBit, dirBit, rmwBit_pin]
    rfl
  have label : ∀ st, microTransports [.enter st] = 0 := fun _ => rfl
  have wait : ∀ n, microTransports [.wait n] = 0 := fun _ => rfl
  have nothing : microTransports [] = 0 := rfl
  simp only [coldPrimitives, coldForced8bit, coldSwitchTo4bit, coldConfigured, List.flatten_cons, List.flatten_nil,
    microTransports_append, microTransports_nibinitBody, scriptTransports_nibinit, microTransports_sendByteBody,
    scriptTransports_send, extra, unpowered, label, wait, nothing]

/-- A run without a fault that begins with the cold start begins with the events of its script (42_controller.md
R174). -/
theorem run_coldStart_trace {u : State} {rest : List Micro} (busy : u.phase = .busy)
    (alive : (u.run (coldStart u.cfg ++ rest)).phase = .busy) :
    u.trace ++ playEvents u.cfg u.x u.draws (coldScript u.cfg) <+: (u.run (coldStart u.cfg ++ rest)).trace := by
  rw [coldStart_eq, List.append_assoc] at alive ⊢
  have ⟨answered, _⟩ := failures_of_run_busy (busy_of_run_append alive)
  rw [microTransports_coldPrimitives, ← scriptTransports_cold u.cfg] at answered
  have played := Performs.cold u.cfg u rfl busy answered
  rw [run_append, ← played.trace]
  exact (Grows.run _ _).trace

theorem coldStart_at_head {u v : State} {i : Instr} (cold : u.initialized = false) (needs : ensuresInit i = true)
    (h : exec i u = .next v) (safe : v.Safe) :
    playEvents u.cfg u.x u.draws (coldScript u.cfg) <+: newEvents u v := by
  have busy := run_busy_of_safe h safe
  obtain ⟨-, rfl⟩ := exec_next h
  obtain ⟨rest, e⟩ := expansionOf_of_cold cold needs
  rw [newEvents, complete_busy busy]
  generalize expansionOf u i = ms at busy e ⊢
  subst e
  obtain ⟨later, grown⟩ := run_coldStart_trace (u := u.accept i (coldStart u.cfg ++ rest)) rfl busy
  exact ⟨later, by rw [← List.drop_left (l₁ := u.trace) (l₂ := _ ++ later), ← List.append_assoc]
                   exact congrArg (List.drop _) grown⟩

/-- Settles O33: by what each part of the run serves, cut before and after the first request that needs the cold
start. -/
theorem coldStartRunsExactlyOnce : Obligations.ColdStartRunsExactlyOnce := by
  intro is s t cold columns h safe
  have served := Served.execAll columns h safe
  refine ⟨by rw [served.initialized, cold, Bool.false_or], ?_, fun pre post i cut early needs => ?_⟩
  · rw [served.newEvents_length, cold]
    rfl
  · subst cut
    obtain ⟨u, before, rest⟩ := execAll_append h
    obtain ⟨v, here, after⟩ := execAll_cons rest
    have vSafe := safe_of_execAll after safe
    have first := Served.execAll columns before (safe_of_execAll rest safe)
    have uCold : u.initialized = false := by rw [first.initialized, cold, early]; rfl
    have vReady : v.initialized = true := by rw [initialized_of_safe here vSafe, needs, Bool.or_true]
    have vCfg : v.cfg = s.cfg := (Grows.exec here).cfg.trans first.cfg
    have later := (Served.execAll (by rw [vCfg, columns]) after safe).newEvents_length
    rw [vReady, vCfg] at later
    exact ⟨u, v, before, here, after, uCold, vReady, coldStart_at_head uCold needs here vSafe, later⟩

end Sys2Proof.Machine
end

section
/-! PROOFS. O36 and O37: the column clamp and the set-cursor byte (42_controller.md R178, R179; 30_encoding.md R91). -/

namespace Sys2Proof.Machine

theorem clampedColumn_of_nonpos (columns : Nat) {c : Int} (h : c ≤ 0) : clampedColumn columns c = 0 := if_pos h

theorem clampedColumn_of_inside {columns : Nat} {c : Int} (pos : 1 ≤ c) (h : c ≤ (columns : Int) - 1) :
    clampedColumn columns c = c.toNat := by
  rw [clampedColumn, if_neg (by omega), if_pos h]

theorem clampedColumn_of_beyond {columns : Nat} {c : Int} (pos : 1 ≤ c) (h : (columns : Int) ≤ c) :
    clampedColumn columns c = columns - 1 := by
  rw [clampedColumn, if_neg (by omega), if_neg (by omega)]

theorem clampedColumn_le (columns : Nat) (c : Int) : clampedColumn columns c ≤ columns - 1 := by
  unfold clampedColumn
  split
  · omega
  · split <;> omega

/-- A column on the display is its own clamp. -/
theorem clampedColumn_of_le {columns k : Nat} (h : k ≤ columns - 1) : clampedColumn columns k = k := by
  obtain rfl | pos := Nat.eq_zero_or_pos k
  · exact clampedColumn_of_nonpos columns le_rfl
  · rw [clampedColumn_of_inside (by omega) (by omega), Int.toNat_natCast]

/-- Settles O36: by the three cases of the clamp, and since its result is on the display. -/
theorem columnClampFollowsTheSpec : Obligations.ColumnClampFollowsTheSpec := by
  refine fun c => ⟨clampedColumn_of_nonpos 16, fun pos h => ?_, fun h => ?_, ?_⟩
  · rw [clampedColumn_of_inside pos (by omega), Int.toNat_of_nonneg (by omega)]
  · exact clampedColumn_of_beyond (by omega) (by omega)
  · exact clampedColumn_of_le (clampedColumn_le 16 c)

theorem position_default (row column : Int) :
    position defaultConfig row column = (if row > 0 then 0x40 else 0x00) + clampedColumn 16 column := rfl

/-- A position of seven bits stands below bit 7 of the set-cursor byte (30_encoding.md R91). -/
theorem setCursor_bits {p : Nat} (h : p < 128) : (0x80#8 ||| BitVec.ofNat 8 p).getLsbD 7 = true ∧
    ((0x80#8 ||| BitVec.ofNat 8 p).extractLsb' 0 7).toNat = p := by
  revert p
  decide

/-- Settles O37: a line base of 0x00 or 0x40 and a clamped column sum to seven bits. -/
theorem cursorByteCarriesThePosition : Obligations.CursorByteCarriesThePosition := by
  intro row column
  have onDisplay : clampedColumn 16 column ≤ 15 := clampedColumn_le 16 column
  have bits := setCursor_bits (p := position defaultConfig row column) (by rw [position_default]; split <;> omega)
  exact ⟨position_default row column, onDisplay, bits⟩

end Sys2Proof.Machine
end

section
/-! PROOFS. O29, O38, O39 and O32: requests by the statements they expand to (42_controller.md R170–R172, R176, R180,
R181). The step position names the request while it runs and is gone at its end, so requests with one expansion have one
outcome. -/

namespace Sys2Proof.Machine

/-! ## The outcome is that of the expansion -/

/-- The state with its step position taken away. -/
def State.unplaced (s : State) : State := { s with position := none }

theorem transport_unplaced (s : State) (a : Action) {f : State → State}
    (hf : ∀ t, f t.unplaced = (f t).unplaced) : s.unplaced.transport a f = (s.transport a f).unplaced := by
  obtain ⟨answers, e⟩ | ⟨fails, e⟩ := transport_cases s a f <;> rw [e]
  · rw [transport_ok (by exact answers)]; exact hf (({ s with failures := consumeDraw s.failures } : State).log a false)
  · rw [transport_fail (by exact fails)]; rfl

theorem takeDraw_unplaced (s : State) (r : Reg) : s.unplaced.takeDraw r = (s.takeDraw r).unplaced := by
  cases r
  · rfl
  · simp only [takeDraw_latch]; rfl

theorem readValue_unplaced (s : State) (r : Reg) : s.unplaced.readValue r = s.readValue r := by cases r <;> rfl

theorem doMicro_unplaced (s : State) (m : Micro) : s.unplaced.doMicro m = (s.doMicro m).unplaced := by
  cases m with
  | read r          =>
    rw [State.doMicro, State.memRead, takeDraw_unplaced, readValue_unplaced]
    exact transport_unplaced (s.takeDraw r) _ (f := fun t => t.setWork (s.readValue r)) fun _ => rfl
  | writeW r        => exact transport_unplaced s _ (f := fun t => t.setReg r s.w) fun _ => rfl
  | writeWBit r p l => exact transport_unplaced s _ (f := fun t => t.setReg r (setbit s.w p l)) fun _ => rfl
  | writeByte r b   => exact transport_unplaced s _ (f := fun t => t.setReg r b) fun _ => rfl
  | writeBuf r b    => exact transport_unplaced s _ (f := fun t => t.setReg r b) fun _ => rfl
  | _               => rfl

theorem perform_unplaced (s : State) (m : Micro) : s.unplaced.perform m = (s.perform m).unplaced := by
  by_cases hp : s.phase = .busy
  · rw [perform_busy hp, perform_busy (by exact hp)]; exact doMicro_unplaced s.advance m
  · rw [perform_not_busy hp, perform_not_busy (by exact hp)]

theorem run_unplaced (s : State) (ms : List Micro) : s.unplaced.run ms = (s.run ms).unplaced := by
  induction ms generalizing s with
  | nil => rfl
  | cons m ms ih => rw [run_cons, perform_unplaced, ih, run_cons]

/-- A transport primitive that does not go on ends the request (60_exceptions.md R228). -/
theorem transport_goes_on_or_ends (s : State) (a : Action) {f : State → State} (hf : ∀ t, (f t).phase = t.phase) :
    (s.transport a f).phase = s.phase ∨ (s.transport a f).position = none := by
  obtain ⟨-, e⟩ | ⟨-, e⟩ := transport_cases s a f <;> rw [e]
  · exact .inl (hf _)
  · exact .inr rfl

theorem doMicro_goes_on_or_ends (s : State) (m : Micro) :
    (s.doMicro m).phase = s.phase ∨ (s.doMicro m).position = none := by
  cases m with
  | read r          => rw [State.doMicro, State.memRead, takeDraw_eq]; exact transport_goes_on_or_ends _ _ fun _ => rfl
  | writeW r        => exact transport_goes_on_or_ends s _ fun _ => rfl
  | writeWBit r p l => exact transport_goes_on_or_ends s _ fun _ => rfl
  | writeByte r b   => exact transport_goes_on_or_ends s _ fun _ => rfl
  | writeBuf r b    => exact transport_goes_on_or_ends s _ fun _ => rfl
  | _               => exact .inl rfl

/-- After a request, completed or ended by a fault, there is no step position (10_state.md R27, log 12). -/
theorem position_of_complete_run {s : State} (busy : s.phase = .busy) (ms : List Micro) :
    (s.run ms).complete.position = none := by
  induction ms generalizing s with
  | nil => rw [run_nil, complete_busy busy]
  | cons m ms ih =>
    by_cases alive : (s.perform m).phase = .busy
    · exact ih alive
    · rw [run_cons, run_not_busy alive, complete_not_busy alive]
      rw [perform_busy busy] at alive ⊢
      exact (doMicro_goes_on_or_ends s.advance m).resolve_left fun kept => alive (kept.trans busy)

theorem complete_unplaced (s : State) : s.unplaced.complete = s.complete.unplaced := by
  by_cases hp : s.phase = .busy
  · rw [complete_busy hp, complete_busy (by exact hp)]; rfl
  · rw [complete_not_busy hp, complete_not_busy (by exact hp)]

/-- The run of an accepted request ends as the run of its statements without a step position does. -/
theorem complete_run_accept (s : State) (i : Instr) (ms : List Micro) :
    ((s.accept i ms).run ms).complete = (({ s with phase := .busy } : State).unplaced.run ms).complete := by
  have placeless := position_of_complete_run (s := s.accept i ms) rfl ms
  have accepted : ({ s with phase := .busy } : State).unplaced = (s.accept i ms).unplaced := rfl
  rw [accepted, run_unplaced, complete_unplaced, State.unplaced, ← placeless]

/-- Requests with the same expansion have the same outcome, whatever the transport does. -/
theorem exec_congr {s : State} {i j : Instr} (e : expansionOf s i = expansionOf s j) : exec i s = exec j s := by
  rw [exec_eq_offer, exec_eq_offer, e]
  cases hp : s.phase
  case idle    => rw [offer_idle hp, offer_idle hp, complete_run_accept, complete_run_accept]
  case busy    => rw [offer_busy hp, offer_busy hp]
  case faulted => rw [offer_faulted hp, offer_faulted hp]

/-! ## A byte sent -/

/-- Settles O29: SENDCMD and SENDCHAR expand to SENDBYTE's statements. -/
theorem commandAndCharacterDispatchToSendbyte : Obligations.CommandAndCharacterDispatchToSendbyte := by
  refine fun b s idle => ⟨exec_congr rfl, exec_congr rfl, Fields.toWord_byte 0x9 b, Fields.toWord_byte 0xA b,
    fun ok => ?_⟩
  obtain ⟨t, ht, tDone, tKept⟩ := exec_send_completes (i := .sendcmd b) rfl idle ok
  obtain ⟨u, hu, uDone, uKept⟩ := exec_send_completes (i := .sendchar b) rfl idle ok
  exact ⟨t, u, ht, hu, tKept, uKept, tDone, uDone⟩

/-- Settles O38: SETCURSOR expands to the statements of a SENDBYTE of the set-cursor byte under RS = 0. -/
theorem setcursorSendsTheCursorByte : Obligations.SetcursorSendsTheCursorByte := by
  refine ⟨fun r c s idle => ⟨exec_congr rfl, fun ok => ?_⟩, by decide, by decide, by decide⟩
  obtain ⟨t, h, done, kept⟩ := exec_send_completes (i := .setcursor r c) rfl idle ok
  exact ⟨t, h, kept, done⟩

/-! ## A script and then the session registers -/

/-- A request that begins with a script's statements runs them while the transport answers, and then its others. -/
theorem exec_of_performs {s : State} {i : Instr} {ms ns : List Micro} {as : List Act} (performs : Performs s.cfg ms as)
    (e : expansionOf s i = ms ++ ns) (idle : s.phase = .idle)
    (ok : transportOk (scriptTransports as) s.failures = true) :
    ∃ u, Played (s.accept i (expansionOf s i)) u as ∧ exec i s = .next (u.run ns).complete := by
  refine ⟨_, performs (s.accept i (expansionOf s i)) rfl rfl ok, ?_⟩
  rw [exec_idle idle, ← run_append, ← e]

/-- A request that ends with its answer after one statement that writes a session register. -/
theorem Played.completes {s u : State} {i : Instr} {ms : List Micro} {as : List Act} {m : Micro}
    (h : Played (s.accept i ms) u as)
    (session : ∀ v : State, v.doMicro m = { v with initialized := (v.doMicro m).initialized,
                                                   currentLine := (v.doMicro m).currentLine }) :
    Completes s (u.run [m, .respond]).complete (playEnd s.cfg s.x s.draws as) (playEvents s.cfg s.x s.draws as) 0 ∧
    (u.run [m, .respond]).complete.initialized = (u.advance.doMicro m).initialized ∧
    (u.run [m, .respond]).complete.currentLine = (u.advance.doMicro m).currentLine := by
  have written : u.perform m = { u.advance with initialized := (u.advance.doMicro m).initialized,
                                                currentLine := (u.advance.doMicro m).currentLine } :=
    (perform_busy h.phase m).trans (session _)
  rw [run_cons, written, run_respond (by exact h.phase), complete_busy (by exact h.phase)]
  exact ⟨⟨rfl, rfl, h.fault, h.cfg, h.host, h.x, h.trace, rfl⟩, rfl, rfl⟩

/-- LINESEL while the transport answers: the set-cursor byte of the line's start, and the line recorded
(42_controller.md R181). -/
theorem exec_linesel_completes {s : State} (l : Line) (idle : s.phase = .idle)
    (ok : transportOk 10 s.failures = true) :
    ∃ t, exec (.linesel l) s = .next t ∧ t.initialized = s.initialized ∧ t.currentLine = l ∧
      Completes s t (playEnd s.cfg s.x s.draws (sendScript s.cfg (cursorByte s.cfg (lineRow l) 0) false))
        (playEvents s.cfg s.x s.draws (sendScript s.cfg (cursorByte s.cfg (lineRow l) 0) false)) 0 := by
  obtain ⟨u, played, h⟩ := exec_of_performs (i := .linesel l)
    (.sendByte s.cfg (cursorByte s.cfg (lineRow l) 0) false) (List.append_assoc _ _ _) idle
    (by rwa [scriptTransports_send])
  obtain ⟨done, initialized, currentLine⟩ := played.completes (m := .setLine l) fun _ => rfl
  exact ⟨_, h, initialized.trans played.initialized, currentLine, done⟩

/-- A request whose transport primitives are not all answered ends in a fault (60_exceptions.md R228). -/
theorem faulted_of_not_answered {i : Instr} {s : State} (idle : s.phase = .idle)
    (fails : transportOk (microTransports (expansionOf s i)) s.failures = false) :
    ∃ t, exec i s = .next t ∧ t.phase = .faulted := by
  refine ⟨_, exec_idle idle i, ?_⟩
  by_contra safe
  rw [transportOk_of_safe (exec_idle idle i) safe] at fails
  cases fails

theorem exec_linesel_faults {s : State} (l : Line) (idle : s.phase = .idle)
    (fails : transportOk 10 s.failures = false) :
    ∃ t, exec (.linesel l) s = .next t ∧ t.phase = .faulted ∧ SessionKept s t := by
  have count : microTransports (expansionOf s (.linesel l)) = 10 := by
    rw [expansionOf, lineselBody, microTransports_append, microTransports_append, microTransports_sendByteBody,
      scriptTransports_send]
    rfl
  obtain ⟨t, h, faulted⟩ := faulted_of_not_answered (i := .linesel l) idle (by rw [count, fails])
  have line := currentLine_after_linesel h
  rw [faulted] at line
  exact ⟨t, h, faulted, exec_initialized_of_not_ensuresInit h rfl, line⟩

/-- Settles O39: LINESEL cur expands to the statements of LINESEL of the current line. -/
theorem lineselSendsTheLineStartAndRecordsTheLine : Obligations.LineselSendsTheLineStartAndRecordsTheLine := by
  intro s i line idle hi
  have same : exec i s = exec (.linesel line) s := by
    obtain rfl | ⟨rfl, rfl⟩ := hi
    · rfl
    · exact exec_congr rfl
  rw [same]
  exact ⟨exec_linesel_completes line idle, exec_linesel_faults line idle⟩

/-- Settles O32: on an initialised block the answer is INIT's only statement (42_controller.md R176). -/
theorem secondInitIsIdempotent : Obligations.SecondInitIsIdempotent := by
  intro s idle ready
  have answer : expansionOf s .init = [] ++ [.respond] := by rw [expansionOf, ensureInitialized, if_pos ready]
  exact completes_of_ran idle answer (.start rfl) rfl fun _ _ => rfl

/-- INIT on a block that is not initialised while the transport answers: the cold start, and the flag set after its last
primitive (42_controller.md R174, R176). -/
theorem exec_init_completes {s : State} (idle : s.phase = .idle) (cold : s.initialized = false)
    (ok : transportOk 137 s.failures = true) :
    ∃ t, exec .init s = .next t ∧
      Completes s t (playEnd s.cfg s.x s.draws (coldScript s.cfg)) (playEvents s.cfg s.x s.draws (coldScript s.cfg)) 0 ∧
      t.initialized = true ∧ t.currentLine = s.currentLine := by
  have e : expansionOf s .init = coldPrimitives s.cfg ++ [.setInitialized, .respond] := by
    rw [expansionOf, ensureInitialized, cold, coldStart_eq]
    simp
  obtain ⟨u, played, h⟩ := exec_of_performs (.cold s.cfg) e idle (by rwa [scriptTransports_cold])
  obtain ⟨done, initialized, currentLine⟩ := played.completes (m := .setInitialized) fun _ => rfl
  exact ⟨_, h, done, initialized, currentLine.trans played.currentLine⟩

end Sys2Proof.Machine
end

section
/-! PROOFS. O30: the lines that the cold start leaves (42_controller.md R174). The directions are set before its
power-on wait; after it the acts touch only the LCD lines of the latch. An output whose level no act changes keeps it
under either read model (20_memory.md R54), so one pin is followed at a time. -/

namespace Sys2Proof.Machine

/-! ## The cold start's script in parts -/

/-- The cold start's four nibbles, with their settle waits (42_controller.md R174). -/
def nibblesScript (c : Config) : List Act :=
  (nibinitScript c 0x3 ++ [.pause c.tS1]) ++ ((nibinitScript c 0x3 ++ [.pause c.tS2]) ++
    ((nibinitScript c 0x3 ++ [.pause c.tS3]) ++ (nibinitScript c 0x2 ++ [.pause c.tS4])))

/-- The cold start's commands up to the last, with the optional wait (42_controller.md R174). -/
def configureScript (c : Config) : List Act :=
  sendScript c c.cmdFunctionSet false ++ (sendScript c c.cmdDisplayOff false ++ (sendScript c c.cmdClear false ++
    (extraScript c ++ (sendScript c c.cmdEntryMode false ++ sendScript c c.cmdDisplayOn false))))

theorem coldScript_eq (c : Config) :
    coldScript c = powerScript c ++ (nibblesScript c ++ (configureScript c ++ sendScript c (homeByte c) false)) := by
  simp [coldScript, nibblesScript, configureScript, homeByte]

/-- The act waits, or sets LCD lines of the latch (41_parallel_bus.md R140–R142). -/
def Act.onBus (p : PinMap) : Act → Prop
  | .dirAll _     => False
  | .latchAll _   => False
  | .dirPin _ _   => False
  | .latchPin k _ => k ∈ (lcdPins p).map Fin.val
  | .nib _        => True
  | .pause _      => True

/-- Every act of the script does so. -/
def OnBus (p : PinMap) (as : List Act) : Prop := ∀ a ∈ as, a.onBus p

theorem OnBus.nil {p : PinMap} : OnBus p [] := fun _ h => nomatch h

theorem OnBus.append {p : PinMap} {as bs : List Act} (h : OnBus p as) (k : OnBus p bs) : OnBus p (as ++ bs) :=
  List.forall_mem_append.mpr ⟨h, k⟩

section
variable (c : Config)

theorem OnBus.pause (n : Nat) : OnBus c.pins [.pause n] := by simp [OnBus, Act.onBus]

theorem OnBus.nibinitScript (n : Nibble) : OnBus c.pins (nibinitScript c n) := by
  simp [OnBus, Machine.nibinitScript, Act.onBus, lcdPins]

theorem OnBus.sendScript (b : Byte) (m : Bool) : OnBus c.pins (sendScript c b m) := by
  simp [OnBus, Machine.sendScript, Act.onBus, lcdPins]

theorem OnBus.extraScript : OnBus c.pins (extraScript c) := by
  unfold Machine.extraScript
  split
  · exact .nil
  · exact .pause c _

/-- After its power-on wait the cold start only waits and sets LCD lines. -/
theorem OnBus.afterPower :
    OnBus c.pins (nibblesScript c ++ (configureScript c ++ Machine.sendScript c (homeByte c) false)) := by
  have nibble : ∀ n k, OnBus c.pins (Machine.nibinitScript c n ++ [.pause k]) :=
    fun n k => (OnBus.nibinitScript c n).append (.pause c k)
  have command : ∀ b, OnBus c.pins (Machine.sendScript c b false) := fun b => .sendScript c b false
  have nibbles : OnBus c.pins (nibblesScript c) :=
    (nibble _ _).append ((nibble _ _).append ((nibble _ _).append (nibble _ _)))
  have configure : OnBus c.pins (configureScript c) :=
    (command _).append ((command _).append ((command _).append
      ((OnBus.extraScript c).append ((command _).append (command _)))))
  exact nibbles.append (configure.append (command _))

end

/-! ## Directions -/

theorem Act.onBus.after_dir {p : PinMap} {a : Act} (h : a.onBus p) (c : Config) (x : Expander) (n : Nat) :
    (a.after c x n).dir = x.dir := by
  cases a with
  | dirAll | latchAll | dirPin => exact h.elim
  | latchPin k l => rw [Act.after]; split <;> rfl
  | nib | pause => rfl

theorem OnBus.playEnd_dir {p : PinMap} {as : List Act} (h : OnBus p as) (c : Config) (x : Expander) (n : Nat) :
    (playEnd c x n as).dir = x.dir := by
  induction as generalizing x n with
  | nil => rfl
  | cons a as ih =>
    obtain ⟨first, rest⟩ := List.forall_mem_cons.mp h
    rw [playEnd, ih rest, first.after_dir]

/-- Lowering a list of positions lowers exactly those. -/
theorem getLsbD_foldl_lower (ps : List (Fin 8)) (v : Byte) (q : Fin 8) :
    (ps.foldl (fun w p => setbit w p.val false) v).getLsbD q.val = if q ∈ ps then false else v.getLsbD q.val := by
  induction ps generalizing v with
  | nil => simp
  | cons p ps ih =>
    rw [List.foldl_cons, ih]
    by_cases same : q = p
    · rw [same, getLsbD_setbit_self]; simp
    · rw [getLsbD_setbit_other _ _ fun e => same (Fin.ext e)]; simp [same]

section
variable (c : Config) (x : Expander) (n : Nat)

/-- The lines of `PIN_MAP` are made outputs, the unused one is as in `INIT_DIR_MASK` (42_controller.md R174). -/
theorem powerScript_dir (q : Fin 8) : (playEnd c x n (powerScript c)).dir.getLsbD q.val =
    if q ∈ c.pins.positions then false else c.initDirMask.getLsbD q.val := by
  have lowered : (playEnd c x n (powerScript c)).dir =
      c.pins.positions.foldl (fun w p => setbit w p.val false) c.initDirMask := by
    simp [powerScript, playEnd, Act.after, pin_not_above_seven, PinMap.positions]
  rw [lowered, getLsbD_foldl_lower]

/-- The cold start sets every direction before its power-on wait. -/
theorem coldScript_dir : (playEnd c x n (coldScript c)).dir = (playEnd c x n (powerScript c)).dir := by
  rw [coldScript_eq, playEnd_append]
  exact (OnBus.afterPower c).playEnd_dir c _ _

end

/-! ## Levels -/

/-- The pin is an output at the level `v`. -/
structure Outputs (q : Fin 8) (v : Bool) (x : Expander) : Prop where
  output : x.dir.getLsbD q.val = false
  level  : x.latch.getLsbD q.val = v

/-- The act neither makes the pin an input nor changes its level. -/
def Act.spares (p : PinMap) (q : Fin 8) : Act → Prop
  | .dirAll _     => False
  | .latchAll _   => False
  | .dirPin _ l   => l = false
  | .latchPin k _ => k ≠ q.val
  | .nib _        => q ∉ p.e :: dataPins p
  | .pause _      => True

section
variable {c : Config} {q : Fin 8} {v : Bool} {x : Expander}

/-- A latch read shows an output's level under either read model, so a change of another pin keeps it (20_memory.md
R54, 70_reset_and_hazards.md R269). -/
theorem Outputs.after {a : Act} (h : Outputs q v x) (spared : a.spares c.pins q) (n : Nat) :
    Outputs q v (a.after c x n) := by
  have shown := (getLsbD_latchRead_output c n h.output).trans h.level
  cases a with
  | dirAll | latchAll => exact spared.elim
  | dirPin k l =>
    have lowered : (setbit x.dir k l).getLsbD q.val = false := by
      rw [getLsbD_setbit]
      split
      · exact spared
      · exact h.output
    rw [Act.after]
    split
    · exact h
    · exact ⟨lowered, h.level⟩
  | latchPin k l =>
    rw [Act.after]
    split
    · exact h
    · exact ⟨h.output, (getLsbD_setbit_other _ _ (Ne.symm spared)).trans shown⟩
  | nib k => exact ⟨h.output, (nibbleImage_other spared _ k).trans shown⟩
  | pause k => exact h

theorem Outputs.playEnd {as : List Act} (h : Outputs q v x) (spared : ∀ a ∈ as, a.spares c.pins q) (n : Nat) :
    Outputs q v (playEnd c x n as) := by
  induction as generalizing x n with
  | nil => exact h
  | cons a as ih =>
    obtain ⟨first, rest⟩ := List.forall_mem_cons.mp spared
    exact ih (h.after first n) rest _

/-- The acts on the LCD lines spare every other pin. -/
theorem OnBus.spares {p : PinMap} {as : List Act} (h : OnBus p as) (hq : q ∉ lcdPins p) :
    ∀ a ∈ as, a.spares p q := by
  intro a ha
  have bus := h a ha
  cases a with
  | dirAll | latchAll | dirPin => exact bus.elim
  | latchPin k l =>
    obtain ⟨k, hk, rfl⟩ := List.mem_map.mp bus
    exact fun same => hq (Fin.ext same ▸ hk)
  | nib k => exact fun data => hq (List.mem_cons_of_mem _ data)
  | pause k => trivial

/-- SENDBYTE leaves RS at its mode, when RS is an output (41_parallel_bus.md R143). -/
theorem rs_after_send (distinct : c.pins.distinct = true) (output : x.dir.getLsbD c.pins.rs.val = false) (n : Nat)
    (b : Byte) (m : Bool) : Outputs c.pins.rs m (playEnd c x n (sendScript c b m)) := by
  have set : Outputs c.pins.rs m ((Act.latchPin c.pins.rs.val m).after c x n) := by
    rw [Act.after, if_neg (pin_not_above_seven _)]
    exact ⟨output, getLsbD_setbit_self _ _ _⟩
  rw [sendScript, playEnd]
  exact set.playEnd (by simp [Act.spares, PinMap.distinct.rs_not_mem distinct]) _

end

section
variable {c : Config} (distinct : c.pins.distinct = true) (x : Expander) (n : Nat)
include distinct

theorem backlight_not_mem_lcdPins : c.pins.bl ∉ lcdPins c.pins := by
  have positions := distinct
  simp only [PinMap.distinct, PinMap.positions, decide_eq_true_eq, List.nodup_cons] at positions
  obtain ⟨fresh, -⟩ := positions
  exact fresh

/-- The backlight is made an output and set high, and then left (42_controller.md R174). -/
theorem backlight_after_cold : Outputs c.pins.bl true (playEnd c x n (coldScript c)) := by
  have hq := backlight_not_mem_lcdPins distinct
  have lit : Outputs c.pins.bl true (playEnd c x n
      [.dirAll c.initDirMask, .dirPin c.pins.bl.val false, .latchPin c.pins.bl.val true]) := by
    simp only [playEnd, Act.after, gt_iff_lt, pin_not_above_seven, if_false]
    exact ⟨getLsbD_setbit_self _ _ _, getLsbD_setbit_self _ _ _⟩
  have power : ∀ a ∈ (powerScript c).drop 3, a.spares c.pins c.pins.bl := by
    have rs : c.pins.rs.val ≠ c.pins.bl.val := fun same => hq (by simp [lcdPins, Fin.ext_iff, same])
    have e : c.pins.e.val ≠ c.pins.bl.val := fun same => hq (by simp [lcdPins, Fin.ext_iff, same])
    simp [powerScript, Act.spares, rs, e]
  have rest := (OnBus.afterPower c).spares hq
  rw [coldScript_eq, ← List.take_append_drop 3 (powerScript c), List.append_assoc, playEnd_append]
  exact lit.playEnd (List.forall_mem_append.mpr ⟨power, rest⟩) _

theorem rs_after_cold : Outputs c.pins.rs false (playEnd c x n (coldScript c)) := by
  have output : (playEnd c x n (coldScript c)).dir.getLsbD c.pins.rs.val = false := by
    rw [coldScript_dir, powerScript_dir, if_pos (by simp [PinMap.positions])]
  rw [coldScript_eq, ← List.append_assoc, ← List.append_assoc, playEnd_append] at output ⊢
  rw [(OnBus.sendScript c _ _).playEnd_dir] at output
  exact rs_after_send distinct output _ _ _

end

theorem enable_after_cold (c : Config) (x : Expander) (n : Nat) :
    (playEnd c x n (coldScript c)).latch.getLsbD c.pins.e.val = false := by
  rw [coldScript_eq, ← List.append_assoc, ← List.append_assoc, playEnd_append]
  exact enable_after_send _ _ _ _ _

/-- Settles O30: INIT completes with its script's expander, whose lines are as above. -/
theorem initPerformsTheColdStart : Obligations.InitPerformsTheColdStart := by
  intro s idle cold distinct ok
  obtain ⟨t, h, done, initialized, currentLine⟩ := exec_init_completes idle cold ok
  have ⟨_, _, _, _, _, x, _⟩ := done
  refine ⟨t, h, done, initialized, currentLine, fun q => ?_, ?_⟩ <;> rw [x]
  · rw [coldScript_dir, powerScript_dir]
  · exact ⟨(backlight_after_cold distinct _ _).level, (rs_after_cold distinct _ _).level, enable_after_cold _ _ _⟩

end Sys2Proof.Machine
end

section
/-! PROOFS. O31: the events, the waits and the lines of the cold start with the default parameters (42_controller.md
R174). Counts and sums are taken script by script, with any parameters. -/

namespace Sys2Proof.Machine

/-! ## The events -/

/-- The counts of two lists of events together. -/
def Counts.plus (a b : Counts) : Counts :=
  { rd := a.rd + b.rd, wr := a.wr + b.wr, wait := a.wait + b.wait, total := a.total + b.total }

theorem countEvents_append (es fs : List Event) : countEvents (es ++ fs) = (countEvents es).plus (countEvents fs) := by
  simp [countEvents, Counts.plus]

section
variable (c : Config) (x : Expander) (d : Nat)

theorem countEvents_pause (k : Nat) :
    countEvents (playEvents c x d [.pause k]) = { rd := 0, wr := 0, wait := 1, total := 1 } := rfl

theorem countEvents_extraScript : countEvents (playEvents c x d (extraScript c)) =
    { rd := 0, wr := 0, wait := extraEvents c, total := extraEvents c } := by
  unfold extraScript extraEvents
  split <;> rfl

theorem countEvents_powerScript :
    countEvents (playEvents c x d (powerScript c)) = { rd := 10, wr := 10, wait := 1, total := 22 } := by
  simp only [powerScript, playEvents, Act.events, pinEvents_pin]
  rfl

/-- The cold start's counts (42_controller.md R174). -/
theorem countEvents_coldScript : countEvents (playEvents c x d (coldScript c)) =
    { rd := 56, wr := 80, wait := 57 + extraEvents c, total := coldEvents c } := by
  simp only [coldScript, List.flatten_cons, List.flatten_nil, List.append_nil, playEvents_append, countEvents_append,
    countEvents_powerScript, countEvents_nibinitScript, countEvents_pause, countEvents_sendScript,
    countEvents_extraScript, Counts.plus, coldEvents, Counts.mk.injEq, true_and]
  constructor <;> omega

theorem waitUnits_pause (k : Nat) : waitUnits (playEvents c x d [.pause k]) = k := rfl

theorem waitUnits_extraScript : waitUnits (playEvents c x d (extraScript c)) = c.tClearExtra := by
  unfold extraScript
  split
  · next h => rw [h]; rfl
  · rfl

theorem waitUnits_powerScript : waitUnits (playEvents c x d (powerScript c)) = c.tPower := by
  simp only [powerScript, playEvents, Act.events, pinEvents_pin]
  rfl

/-- The sum of the cold start's waits: the power-on wait, four cold-start nibbles with their settle waits, and six
bytes (42_controller.md R174, 70_reset_and_hazards.md R275). -/
theorem waitUnits_coldScript : waitUnits (playEvents c x d (coldScript c)) =
    c.tPower + 16 * c.tInitNib + (c.tS1 + c.tS2 + c.tS3 + c.tS4) + 12 * (c.tSetup + c.tPulse + c.tHold) +
      c.tClearExtra := by
  simp only [coldScript, List.flatten_cons, List.flatten_nil, List.append_nil, playEvents_append, waitUnits_append,
    waitUnits_powerScript, waitUnits_nibinitScript, waitUnits_pause, waitUnits_sendScript, waitUnits_extraScript]
  omega

end

/-! ## The lines -/

/-- The data lines are left at the low nibble of the last command. -/
theorem data_after_cold (c : Config) (x : Expander) (d : Nat) :
    ∃ v, (playEnd c x d (coldScript c)).latch = nibbleImage c.pins v (lowNibble (homeByte c)) := by
  rw [coldScript_eq, ← List.append_assoc, ← List.append_assoc, playEnd_append]
  exact ⟨_, rfl⟩

/-- With the default parameters bit 0 of the latch, which is on no line, is left (40_expander.md R129). -/
theorem unused_latch_bit_kept {s t : State} (h : exec .init s = .next t) (defaults : s.cfg = defaultConfig) :
    t.x.latch.getLsbD 0 = s.x.latch.getLsbD 0 := by
  have latch : s.cfg.readModel = .latch := by rw [defaults]; rfl
  have unused : (0 : Fin 8) ∉ s.cfg.pins.positions := by rw [defaults]; decide
  obtain ⟨kept, -⟩ := theUnusedBitIsNeverTouched .init s t 0 latch unused h (by simp) (by simp) (by simp) (by simp)
  exact kept

/-- A byte is known by its eight bits. -/
theorem byte_eq_of_pins {a b : Byte} (h : ∀ q : Fin 8, a.getLsbD q.val = b.getLsbD q.val) : a = b :=
  BitVec.eq_of_getLsbD_eq fun i hi => h ⟨i, hi⟩

/-- Settles O31: the cold start's script with the default parameters; of its end state, bit by bit, the lines are as O30
says, the data lines at the last nibble, 0x0, and the unused bit kept. -/
theorem defaultColdStartEmits194Events : Obligations.DefaultColdStartEmits194Events := by
  intro s idle cold defaults ok
  have distinct : s.cfg.pins.distinct = true := by rw [defaults]; decide
  obtain ⟨t, h, done, -, -, dir, bl, rs, e⟩ := initPerformsTheColdStart s idle cold distinct ok
  have unused := unused_latch_bit_kept h defaults
  have ⟨_, _, _, _, _, x, _⟩ := done
  obtain ⟨v, latch⟩ := data_after_cold s.cfg s.x s.draws
  obtain ⟨d4, d5, d6, d7⟩ := nibbleImage_data distinct v (lowNibble (homeByte s.cfg))
  rw [← latch, ← x, defaults] at d4 d5 d6 d7
  rw [defaults] at dir bl rs e
  refine ⟨t, h, ?_⟩
  rw [newEvents_of_completes done, countEvents_coldScript, waitUnits_coldScript, defaults]
  refine ⟨rfl, rfl, rfl, byte_eq_of_pins fun q => ?_, byte_eq_of_pins fun q => ?_⟩
  · rw [dir]
    revert q
    decide
  · rw [getLsbD_setbit]
    fin_cases q
    · exact unused
    · exact rs
    · exact e
    · exact d4
    · exact d5
    · exact d6
    · exact d7
    · exact bl

end Sys2Proof.Machine
end

section
/-! PROOFS. O53: the cold-start machine never goes back (42_controller.md R173). The labels of the expansion ascend, so
a tick that passes one goes up; after the last comes the session flag, which no statement clears. -/

namespace Sys2Proof.Machine

/-! ## Labels -/

/-- The labels that a list of statements passes, in order. -/
def labels (ms : List Micro) : List Stage :=
  ms.filterMap fun m => match m with
    | .enter st => some st
    | _         => none

@[simp] theorem labels_append (ms ns : List Micro) : labels (ms ++ ns) = labels ms ++ labels ns :=
  List.filterMap_append

theorem lastStage_append (st : Stage) (ms ns : List Micro) :
    lastStage st (ms ++ ns) = lastStage (lastStage st ms) ns := by
  induction ms generalizing st with
  | nil => rfl
  | cons m ms ih => cases m <;> exact ih _

/-- The stage a list stands at is its last label. -/
theorem lastStage_mem (st : Stage) (ms : List Micro) : lastStage st ms ∈ st :: labels ms := by
  induction ms generalizing st with
  | nil => exact List.mem_cons_self
  | cons m ms ih =>
    cases m with
    | enter st' => exact List.mem_cons_of_mem _ (ih st')
    | _         => exact ih st

/-- The labels of the statements ascend from UNPOWERED on. -/
def Ascends (ms : List Micro) : Prop := (Stage.unpowered :: labels ms).Pairwise fun a b => a.rank ≤ b.rank

/-- Passing one statement of an ascending list does not go back. -/
theorem Ascends.lastStage_le {ms ns : List Micro} {m : Micro} (h : Ascends (ms ++ m :: ns)) :
    (lastStage .unpowered ms).rank ≤ (lastStage .unpowered (ms ++ [m])).rank := by
  rw [lastStage_append]
  cases m with
  | enter st =>
    have cut : labels (ms ++ .enter st :: ns) = labels ms ++ st :: labels ns := labels_append ms (.enter st :: ns)
    rw [Ascends, cut, ← List.cons_append, List.pairwise_append] at h
    obtain ⟨-, -, below⟩ := h
    exact below _ (lastStage_mem _ _) _ List.mem_cons_self
  | _ => exact le_rfl

/-! ## The expansion of a cold start -/

section
variable (c : Config)

theorem labels_nibinitBody (n : Nibble) : labels (nibinitBody c n) = [] := by
  simp only [nibinitBody, latchBit, rmwBit_pin]
  rfl

theorem labels_sendByteBody (b : Byte) (m : Bool) : labels (sendByteBody c b m) = [] := by
  simp only [sendByteBody, latchBit, rmwBit_pin]
  rfl

theorem labels_clearExtra : labels (clearExtra c) = [] := by
  unfold clearExtra
  split <;> rfl

theorem labels_spaces (n : Nat) : labels (spaces c n) = [] := by
  induction n with
  | zero => rfl
  | succ n ih => rw [spaces, labels_append, labels_sendByteBody, ih, List.append_nil]

theorem labels_clearBody : labels (clearBody c) = [] := by
  simp [clearBody, labels_sendByteBody, labels_clearExtra]

theorem labels_clearlineBody (l : Line) : labels (clearlineBody c l) = [] := by
  rw [clearlineBody, lineselBody, labels_append, labels_append, labels_sendByteBody, labels_spaces]
  rfl

/-- The states of the cold start, in order (42_controller.md R173, R174). -/
theorem labels_coldStart :
    labels (coldStart c) = [.unpowered, .forced8bit, .switchTo4bit, .configured, .ready] := by
  have label : ∀ st, labels [.enter st] = [st] := fun _ => rfl
  have wait : ∀ n, labels [.wait n] = [] := fun _ => rfl
  have ready : labels [.enter .ready, .setInitialized] = [.ready] := rfl
  have unpowered : labels (coldUnpowered c) = [.unpowered] := by
    simp only [coldUnpowered, latchBit, dirBit, rmwBit_pin]
    rfl
  simp only [coldStart, coldForced8bit, coldSwitchTo4bit, coldConfigured, List.flatten_cons, List.flatten_nil,
    labels_append, unpowered, labels_nibinitBody, labels_sendByteBody, labels_clearExtra, label, wait, ready]
  rfl

theorem ascends_coldStart {ms : List Micro} (h : labels ms = []) : Ascends (coldStart c ++ ms ++ [.respond]) := by
  have answer : labels [.respond] = [] := rfl
  rw [Ascends, labels_append, labels_append, labels_coldStart, h, answer]
  decide

end

/-! ## A tick -/

/-- While the request runs, its position stands in an ascending list, and the session flag is set or a statement that
remains sets it. -/
def Climbs (s : State) : Prop :=
  s.phase = .busy → (∃ p, s.position = some p ∧ Ascends p.expansion) ∧
    (s.initialized = true ∨ Micro.setInitialized ∈ s.remaining)

theorem stage_of_initialized {s : State} (h : s.initialized = true) : s.stage = .ready := by rw [State.stage, if_pos h]

theorem stage_of_position {s : State} {p : Position} (h : s.initialized = false) (hp : s.position = some p) :
    s.stage = lastStage .unpowered (p.expansion.take p.next) := by
  simp [State.stage, h, hp]

theorem rank_le_ready (st : Stage) : st.rank ≤ Stage.ready.rank := by cases st <;> decide

/-- A statement leaves the flag set if it was, or if it sets it (10_state.md R22). -/
theorem perform_initialized {s : State} (busy : s.phase = .busy) {m : Micro}
    (h : s.initialized = true ∨ m = .setInitialized) : (s.perform m).initialized = true := by
  obtain h | rfl := h
  · exact run_initialized_mono [m] h
  · rw [perform_busy busy]; rfl

/-- A statement performed without a fault does not take the cold-start machine back. -/
theorem stage_perform {s : State} {p : Position} {m : Micro} {ms : List Micro} (busy : s.phase = .busy)
    (position : s.position = some p) (ascends : Ascends p.expansion) (remaining : s.remaining = m :: ms)
    (moved : (s.perform m).position = some p.advance) : s.stage.rank ≤ (s.perform m).stage.rank := by
  cases set : (s.perform m).initialized with
  | true => rw [stage_of_initialized set]; exact rank_le_ready _
  | false =>
    have unset : s.initialized = false := by
      by_contra h
      rw [perform_initialized busy (.inl (eq_true_of_ne_false h))] at set
      cases set
    have rest : p.expansion.drop p.next = m :: ms := (remaining_of_position position).symm.trans remaining
    have here : p.expansion[p.next]? = some m := by rw [← List.head?_drop, rest]; rfl
    rw [stage_of_position unset position, stage_of_position set moved]
    simp only [Position.advance, List.take_add_one, here, Option.toList_some]
    rw [← List.take_append_drop p.next p.expansion, rest] at ascends
    exact ascends.lastStage_le

/-- One tick of a request that climbs, unless it ends in a fault. -/
theorem Climbs.tick {s : State} (h : Climbs s) (alive : s.tick.phase ≠ .faulted) :
    s.stage.rank ≤ s.tick.stage.rank ∧ Climbs s.tick := by
  by_cases busy : s.phase = .busy
  · obtain ⟨⟨p, position, ascends⟩, flag⟩ := h busy
    cases remaining : s.remaining with
    | nil =>
      have ready : s.initialized = true := flag.resolve_right (by rw [remaining]; exact List.not_mem_nil)
      rw [tick_of_remaining_nil busy remaining, complete_busy busy]
      exact ⟨by rw [stage_of_initialized ready, stage_of_initialized (by exact ready)], fun h => nomatch h⟩
    | cons m ms =>
      rw [tick_of_remaining_cons busy remaining] at alive ⊢
      obtain ⟨-, moved⟩ := (perform_position busy m).resolve_right alive
      have tail := remaining_of_position_advance moved
      rw [position] at moved
      refine ⟨stage_perform busy position ascends remaining moved, fun _ => ⟨⟨p.advance, moved, ascends⟩, ?_⟩⟩
      rw [tail, remaining, List.tail_cons]
      rw [remaining, List.mem_cons] at flag
      obtain set | here | later := flag
      · exact .inl (perform_initialized busy (.inl set))
      · exact .inl (perform_initialized busy (.inr here.symm))
      · exact .inr later
  · rw [tick_not_busy busy]
    exact ⟨le_rfl, h⟩

/-- A run of ticks without a fault. A faulted block stays so (60_exceptions.md R229), so no earlier tick faulted. -/
theorem Climbs.iterate {s : State} (h : Climbs s) (n : Nat)
    (alive : (iterate State.tick (n + 1) s).phase ≠ .faulted) :
    (iterate State.tick n s).stage.rank ≤ (iterate State.tick (n + 1) s).stage.rank := by
  induction n generalizing s with
  | zero =>
    obtain ⟨higher, -⟩ := h.tick alive
    exact higher
  | succ n ih =>
    have now : s.tick.phase ≠ .faulted := by
      intro faulted
      rw [Machine.iterate, iterate_tick_not_busy (by rw [faulted]; decide)] at alive
      exact alive faulted
    obtain ⟨-, later⟩ := h.tick now
    exact ih later alive

theorem Climbs.accept {s : State} {i : Instr} {ms : List Micro} (ascends : Ascends ms)
    (sets : Micro.setInitialized ∈ ms) : Climbs (s.accept i ms) :=
  fun _ => ⟨⟨_, rfl, ascends⟩, .inr sets⟩

/-- Settles O53: the expansions of the three requests ascend and set the flag. -/
theorem theColdStartMachineNeverGoesBack : Obligations.TheColdStartMachineNeverGoesBack := by
  rintro s u i ms idle cold hi rfl
  have check : ensureInitialized s = coldStart s.cfg := by rw [ensureInitialized, cold]; rfl
  have request : expansionOf s i = coldStart s.cfg ++ ms ++ [.respond] ∧ labels ms = [] := by
    obtain ⟨rfl, rfl⟩ | ⟨rfl, rfl⟩ | ⟨l, rfl, rfl⟩ := hi
    · exact ⟨by rw [expansionOf, check, List.append_nil], rfl⟩
    · exact ⟨by rw [expansionOf, check], labels_clearBody s.cfg⟩
    · exact ⟨by rw [expansionOf, check], labels_clearlineBody s.cfg l⟩
  obtain ⟨expansion, unlabelled⟩ := request
  have climbs : Climbs (s.accept i (coldStart s.cfg ++ ms ++ [.respond])) :=
    .accept (ascends_coldStart s.cfg unlabelled) (by simp [coldStart_eq])
  exact ⟨by rw [exec_eq_offer, expansion, offer_idle idle, finish_accept], climbs.iterate⟩

end Sys2Proof.Machine
end

section
/-! PROOFS. O58: the cold start leaves the LCD synchronised and configured (42_controller.md R175). Up to the power-on
wait the LCD may capture anything; at that wait the expander is quiet and the controller has finished what it executed.
From there each part of the script is told by what it does to the LCD from any quiet expander, and the parts are
composed. -/

namespace Sys2Proof.Machine

/-! ## Scripts from a quiet expander -/

/-- The expander drives the LCD, and RS is low. -/
structure Quiet (p : PinMap) (x : Expander) : Prop extends Drives p x where
  command : x.latch.getLsbD p.rs.val = false

theorem Quiet.rs_output {p : PinMap} {x : Expander} (h : Quiet p x) : x.dir.getLsbD p.rs.val = false :=
  h.output _ (by simp [lcdPins])

/-- From a quiet expander the script leaves a quiet expander, and takes the LCD as `R` says, whatever the draws. -/
def Takes (c : Config) (as : List Act) (R : Lcd → Lcd → Prop) : Prop :=
  ∀ x, Quiet c.pins x → ∀ (d : Nat → LcdDraw) (n : Nat) (l : Lcd),
    Quiet c.pins (playEnd c x n as) ∧ R l (Lcd.observe c d x (playEvents c x n as) l)

theorem Takes.mono {c : Config} {as : List Act} {R S : Lcd → Lcd → Prop} (h : Takes c as R)
    (imp : ∀ l l', R l l' → S l l') : Takes c as S := fun x quiet d n l =>
  have ⟨left, taken⟩ := h x quiet d n l
  ⟨left, imp _ _ taken⟩

theorem Lcd.Waits.refl (l : Lcd) : l.Waits l := ⟨rfl, rfl, rfl, rfl, id⟩

theorem Lcd.Waits.strobed {l l₁ l₂ : Lcd} {k : Capture} (h : l.Waits l₁) (strobe : l₁.Strobed l₂ k) :
    l.Strobed l₂ k := by
  obtain ⟨u, before, after⟩ := strobe
  exact ⟨u, h.trans before, after⟩

theorem Lcd.Strobed.waits {l l₁ l₂ : Lcd} {k : Capture} (strobe : l.Strobed l₁ k) (h : l₁.Waits l₂) :
    l.Strobed l₂ k := by
  obtain ⟨u, before, after⟩ := strobe
  exact ⟨u, before, after.trans h⟩

section
variable {c : Config} (regs : c.regDir ≠ c.regLatch)
include regs

/-- The observation of two scripts, cut where E is an output. -/
theorem observe_play_append (as bs : List Act) (d : Nat → LcdDraw) {x : Expander} (n : Nat) (l : Lcd)
    (out : (playEnd c x n as).dir.getLsbD c.pins.e.val = false) :
    Lcd.observe c d x (playEvents c x n (as ++ bs)) l =
      Lcd.observe c (fun k => d (k + (playEvents c x n as).length)) (playEnd c x n as)
        (playEvents c (playEnd c x n as) (n + scriptReads as) bs) (Lcd.observe c d x (playEvents c x n as) l) := by
  have replayed := replay_playEvents regs x n as
  rw [playEvents_append, observe_append _ _ _ _ (by rw [replayed]; exact out), replayed]

theorem Takes.append {as bs : List Act} {R S : Lcd → Lcd → Prop} (h : Takes c as R) (k : Takes c bs S) :
    Takes c (as ++ bs) (Relation.Comp R S) := by
  intro x quiet d n l
  obtain ⟨between, first⟩ := h x quiet d n l
  rw [playEnd_append, observe_play_append regs _ _ _ _ _ between.enable]
  obtain ⟨left, second⟩ := k _ between _ _ _
  exact ⟨left, _, first, second⟩

theorem Takes.append_waits {as bs : List Act} (h : Takes c as Lcd.Waits) (k : Takes c bs Lcd.Waits) :
    Takes c (as ++ bs) Lcd.Waits :=
  (h.append regs k).mono fun _ _ ⟨_, first, second⟩ => first.trans second

/-! ## Waits, and single lines -/

omit regs in
theorem observe_pause {x : Expander} (out : x.dir.getLsbD c.pins.e.val = false) (d : Nat → LcdDraw) (n k : Nat)
    (l : Lcd) : Lcd.observe c d x (playEvents c x n [.pause k]) l = l.elapse c (evWait k) := by
  rw [playEvents, playEvents, Act.events, List.append_nil, observe_wait _ _ _ out, observe_nil_of_output _ _ out]

omit regs in
theorem Takes.pause (c : Config) (k : Nat) : Takes c [.pause k] Lcd.Waits := fun _ quiet d n l =>
  ⟨quiet, by rw [observe_pause quiet.enable]; exact .elapse c l _⟩

omit regs in
theorem Takes.extra (c : Config) : Takes c (extraScript c) Lcd.Waits := by
  unfold extraScript
  split
  · exact fun _ quiet d n l => ⟨quiet, by rw [playEvents, observe_nil_of_output _ _ quiet.enable]; exact .refl l⟩
  · exact .pause c _

/-- Setting a line but RS captures nothing while E is low, and E stays low if it is not set high. -/
theorem Takes.line {q : Fin 8} {v : Bool} (notRs : c.pins.rs.val ≠ q.val) (notHigh : c.pins.e.val = q.val → v = false) :
    Takes c [.latchPin q.val v] Lcd.Waits := by
  intro x quiet d n l
  have kept : ∀ {k : Nat}, x.dir.getLsbD k = false → x.latch.getLsbD k = false → (k = q.val → v = false) →
      (setbit (latchRead c x n) q.val v).getLsbD k = false := by
    intro k output low new
    rw [getLsbD_setbit]
    split
    · next hk => obtain ⟨-, same⟩ := hk; exact new same
    · rw [getLsbD_latchRead_output c n output, low]
  rw [playEnd, playEnd, playEvents, playEvents, List.append_nil, Act.after, Act.events,
    if_neg (pin_not_above_seven q), pinEvents_pin, observe_rd _ _ _ quiet.enable,
    observe_wr_of_low _ _ _ quiet.enable regs quiet.low, observe_nil_of_output _ _ (by exact quiet.enable)]
  exact ⟨⟨quiet.toDrives.latch (kept quiet.enable quiet.low notHigh),
    kept quiet.rs_output quiet.command fun same => absurd same notRs⟩, .refl l⟩

end

/-! ## A cold-start nibble -/

/-- The first part of NIBINIT: the data lines, and E low (41_parallel_bus.md R142). -/
def linesScript (c : Config) (n : Nibble) : List Act :=
  [.latchPin c.pins.db4.val (n.getLsbD 0), .latchPin c.pins.db5.val (n.getLsbD 1),
   .latchPin c.pins.db6.val (n.getLsbD 2), .latchPin c.pins.db7.val (n.getLsbD 3), .pause c.tInitNib,
   .latchPin c.pins.e.val false, .pause c.tInitNib]

/-- The second part of NIBINIT: the pulse of E. -/
def pulseScript (c : Config) : List Act :=
  [.latchPin c.pins.e.val true, .pause c.tInitNib, .latchPin c.pins.e.val false, .pause c.tInitNib]

theorem nibinitScript_eq (c : Config) (n : Nibble) : nibinitScript c n = linesScript c n ++ pulseScript c := rfl

/-- The LCD captures the nibble `n` once under RS = 0, in some time. -/
def Lcd.Nibbled (n : Nibble) (l l' : Lcd) : Prop := ∃ k : Capture, (k.rs = false ∧ k.nib = n) ∧ l.Strobed l' k

theorem setbit_nibbleImage (p : PinMap) (v : Byte) (n : Nibble) :
    setbit (nibbleImage p v n) p.e.val false = nibbleImage p v n := setbit_setbit _ _ _ _

section
variable {c : Config} (regs : c.regDir ≠ c.regLatch) (distinct : c.pins.distinct = true)
include regs distinct

theorem Takes.lines (n : Nibble) : Takes c (linesScript c n) Lcd.Waits := by
  obtain ⟨⟨re, e4, e5, e6, e7⟩, ⟨r4, r5, r6, r7⟩, -⟩ := PinMap.distinct.ne distinct
  have line : ∀ {q : Fin 8}, c.pins.rs.val ≠ q.val → q.val ≠ c.pins.e.val →
      ∀ v, Takes c [.latchPin q.val v] Lcd.Waits :=
    fun notRs notE _ => .line regs notRs fun same => absurd same.symm notE
  have enable : Takes c [.latchPin c.pins.e.val false] Lcd.Waits := .line regs re fun _ => rfl
  have wait := Takes.pause c c.tInitNib
  exact ((((((line r4 e4 _).append_waits regs (line r5 e5 _)).append_waits regs (line r6 e6 _)).append_waits regs
    (line r7 e7 _)).append_waits regs wait).append_waits regs enable).append_waits regs wait

variable (model : c.readModel = .latch)
include model

omit regs distinct in
theorem playEnd_lines (x : Expander) (d : Nat) (n : Nibble) :
    playEnd c x d (linesScript c n) = { x with latch := nibbleImage c.pins x.latch n } := by
  simp [linesScript, playEnd, Act.after, model, pin_not_above_seven, nibbleImage, placeNibble]

omit regs distinct in
theorem playEnd_pulse (x : Expander) (d : Nat) (v : Byte) (n : Nibble) :
    playEnd c { x with latch := nibbleImage c.pins v n } d (pulseScript c) =
      { x with latch := nibbleImage c.pins v n } := by
  simp [pulseScript, playEnd, Act.after, model, pin_not_above_seven, setbit_setbit, setbit_nibbleImage]

/-- The pulse of E over a nibble's image captures the nibble, under the RS line as it stands (41_parallel_bus.md
R151). -/
theorem observe_pulse {x : Expander} (out : ∀ q ∈ lcdPins c.pins, x.dir.getLsbD q.val = false) (v : Byte) (n : Nibble)
    (d : Nat → LcdDraw) (r : Nat) (l : Lcd) : ∃ k : Capture, (k.rs = v.getLsbD c.pins.rs.val ∧ k.nib = n) ∧
    l.Strobed (Lcd.observe c d { x with latch := nibbleImage c.pins v n }
      (playEvents c { x with latch := nibbleImage c.pins v n } r (pulseScript c)) l) k := by
  have output := out c.pins.e (by simp [lcdPins])
  have low := nibbleImage_enable c.pins v n
  have high := getLsbD_setbit_self (nibbleImage c.pins v n) c.pins.e true
  have events : playEvents c { x with latch := nibbleImage c.pins v n } r (pulseScript c) =
      [evRd c.regLatch (nibbleImage c.pins v n), evWr c.regLatch (setbit (nibbleImage c.pins v n) c.pins.e true),
       evWait c.tInitNib, evRd c.regLatch (setbit (nibbleImage c.pins v n) c.pins.e true),
       evWr c.regLatch (nibbleImage c.pins v n), evWait c.tInitNib] := by
    simp [pulseScript, playEvents, Act.events, Act.after, pinEvents_pin, model, pin_not_above_seven, setbit_setbit,
      setbit_nibbleImage]
  refine ⟨{ rs := _, nib := n, low := (d 4).settle.low, ready := (d 4).settle.ready }, ⟨rfl, rfl⟩, _,
    .elapse c l (evWait c.tInitNib), ?_⟩
  rw [events, observe_rd _ _ _ (by exact output), observe_wr_of_low _ _ _ (by exact output) regs (by exact low),
    observe_wait _ _ _ (by exact output), observe_rd _ _ _ (by exact output),
    observe_wr_fall _ _ _ (by exact output) regs (by exact high) low, observe_wait _ _ _ (by exact output),
    observe_nil_of_output _ _ (by exact output), edgeCapture_nibbleImage out distinct]
  exact .elapse c _ _

/-- The cold-start nibble is captured once under RS = 0 (41_parallel_bus.md R142, R151). -/
theorem Takes.nibinit (n : Nibble) : Takes c (nibinitScript c n) (Lcd.Nibbled n) := by
  intro x quiet d r l
  obtain ⟨left, waited⟩ := Takes.lines regs distinct n x quiet d r l
  rw [nibinitScript_eq, playEnd_append, observe_play_append regs _ _ _ _ _ left.enable]
  rw [playEnd_lines model] at left ⊢
  rw [playEnd_pulse model]
  obtain ⟨k, ⟨rs, nib⟩, strobed⟩ := observe_pulse regs distinct model quiet.output x.latch n _ _ _
  exact ⟨left, k, ⟨rs.trans quiet.command, nib⟩, waited.strobed strobed⟩

/-- The same with its settle wait. -/
theorem Takes.settled (n : Nibble) (k : Nat) : Takes c (nibinitScript c n ++ [.pause k]) (Lcd.Nibbled n) :=
  ((Takes.nibinit regs distinct model n).append regs (.pause c k)).mono fun _ _ ⟨_, ⟨k, nibble, strobed⟩, waited⟩ =>
    ⟨k, nibble, strobed.waits waited⟩

end

/-! ## Synchronisation -/

/-- Time changes nothing on a controller that has finished. -/
theorem Lcd.Waits.eq_of_finished {l l' : Lcd} (h : l.Waits l') (finished : l.clearing = false) : l' = l := by
  obtain ⟨iface, captured, received, executed, still⟩ := h
  cases l
  cases l'
  simp_all

theorem Lcd.capture_three_finished {l : Lcd} {k : Capture} (finished : l.clearing = false)
    (hk : k.rs = false ∧ k.nib = 0x3) : (l.capture k).clearing = false := by
  obtain ⟨rs, nib⟩ := hk
  cases iface : l.iface with
  | eight =>
    obtain ⟨-, still⟩ := Lcd.At.capture_three_eight rs ⟨iface, finished⟩ nib
    exact still
  | fourHi =>
    obtain ⟨-, still⟩ := Lcd.At.capture_fourHi (c := k) ⟨iface, finished⟩
    exact still
  | fourLo hi =>
    obtain ⟨-, still⟩ := Lcd.At.capture_three_fourLo rs ⟨iface, finished⟩ nib
    exact still

/-- On a controller that has finished, the nibble 0x3 is captured and nothing else happens. -/
theorem Lcd.Nibbled.three {l l' : Lcd} (h : l.Nibbled 0x3 l') (finished : l.clearing = false) :
    l'.clearing = false ∧ ∃ k : Capture, (k.rs = false ∧ k.nib = 0x3) ∧ l' = l.capture k := by
  obtain ⟨k, hk, u, before, after⟩ := h
  rw [before.eq_of_finished finished] at after
  have still := Lcd.capture_three_finished finished hk
  exact ⟨after.finished still, k, hk, after.eq_of_finished still⟩

/-- The four cold-start nibbles leave any interface in 4-bit mode, expecting a high nibble (41_parallel_bus.md R156). -/
theorem Lcd.Nibbled.synchronises {l l₁ l₂ l₃ l₄ : Lcd} (finished : l.clearing = false) (h₁ : l.Nibbled 0x3 l₁)
    (h₂ : l₁.Nibbled 0x3 l₂) (h₃ : l₂.Nibbled 0x3 l₃) (h₄ : l₃.Nibbled 0x2 l₄) : l₄.iface = .fourHi := by
  obtain ⟨finished₁, a, ha, rfl⟩ := h₁.three finished
  obtain ⟨finished₂, b, hb, rfl⟩ := h₂.three finished₁
  obtain ⟨finished₃, k, hk, rfl⟩ := h₃.three finished₂
  obtain ⟨m, ⟨rs, nib⟩, u, before, after⟩ := h₄
  rw [before.eq_of_finished finished₃] at after
  rw [after.iface]
  exact (Lcd.capture_three_threes finished ha hb hk).capture_two_eight rs nib

theorem Takes.nibbles {c : Config} (regs : c.regDir ≠ c.regLatch) (distinct : c.pins.distinct = true)
    (model : c.readModel = .latch) :
    Takes c (nibblesScript c) fun l l' => l.clearing = false → l'.iface = .fourHi := by
  have nibble := Takes.settled regs distinct model
  refine ((nibble 0x3 c.tS1).append regs ((nibble 0x3 c.tS2).append regs ((nibble 0x3 c.tS3).append regs
    (nibble 0x2 c.tS4)))).mono ?_
  rintro l l' ⟨l₁, h₁, l₂, h₂, l₃, h₃, h₄⟩ finished
  exact Lcd.Nibbled.synchronises finished h₁ h₂ h₃ h₄

/-! ## The commands -/

/-- An LCD that expects a high nibble receives these commands, and expects a high nibble again. -/
def Lcd.Commanded (bs : List Byte) (l l' : Lcd) : Prop :=
  l.iface = .fourHi → l'.iface = .fourHi ∧ l'.received = l.received ++ bs.map fun b => (false, b)

theorem Lcd.Waits.commanded {l l' : Lcd} (h : l.Waits l') : l.Commanded [] l' := fun start =>
  ⟨h.iface.trans start, by rw [h.received]; simp⟩

theorem Lcd.Commanded.trans {as bs : List Byte} {l l₁ l₂ : Lcd} (h : l.Commanded as l₁) (k : l₁.Commanded bs l₂) :
    l.Commanded (as ++ bs) l₂ := by
  intro start
  obtain ⟨between, first⟩ := h start
  obtain ⟨last, second⟩ := k between
  exact ⟨last, by rw [second, first, List.map_append, List.append_assoc]⟩

section
variable {c : Config} (regs : c.regDir ≠ c.regLatch)
include regs

theorem Takes.append_commands {as bs : List Act} {xs ys : List Byte} (h : Takes c as (Lcd.Commanded xs))
    (k : Takes c bs (Lcd.Commanded ys)) : Takes c (as ++ bs) (Lcd.Commanded (xs ++ ys)) :=
  (h.append regs k).mono fun _ _ ⟨_, first, second⟩ => first.trans second

variable (distinct : c.pins.distinct = true)
include distinct

/-- A command that is no function set with DL = 1 (41_parallel_bus.md R154, R155). -/
theorem Takes.command {b : Byte} (hb : highNibble b ≠ 0x3#4) : Takes c (sendScript c b false) (Lcd.Commanded [b]) := by
  intro x quiet d n l
  have rs := rs_after_send distinct quiet.rs_output n b false
  refine ⟨⟨quiet.after_send distinct n b false, rs.level⟩, fun start => ?_⟩
  obtain ⟨c₁, c₂, done, delivered⟩ := observe_send regs distinct quiet.toDrives d l n b false start
  exact ⟨delivered.iface.trans (afterByte_of_not_eight (.inr hb) done), delivered.received⟩

theorem Takes.commands (hb : ∀ b ∈ coldBytes c, highNibble b ≠ 0x3#4) :
    Takes c (configureScript c ++ sendScript c (homeByte c) false) (Lcd.Commanded (coldBytes c)) := by
  simp only [coldBytes, List.forall_mem_cons] at hb
  obtain ⟨functionSet, displayOff, clear, entryMode, displayOn, home, -⟩ := hb
  have command : ∀ {b}, highNibble b ≠ 0x3#4 → Takes c (sendScript c b false) (Lcd.Commanded [b]) :=
    fun h => .command regs distinct h
  have extra := (Takes.extra c).mono fun _ _ => Lcd.Waits.commanded
  exact ((command functionSet).append_commands regs <| (command displayOff).append_commands regs <|
    (command clear).append_commands regs <| extra.append_commands regs <|
    (command entryMode).append_commands regs (command displayOn)).append_commands regs (command home)

end

/-! ## Up to the power-on wait -/

section
variable {c : Config} (x : Expander) (n : Nat)

theorem lcdPins_output_after_power :
    ∀ q ∈ lcdPins c.pins, (playEnd c x n (powerScript c)).dir.getLsbD q.val = false := by
  intro q hq
  have mapped : q ∈ c.pins.positions := List.mem_cons_of_mem _ hq
  rw [powerScript_dir, if_pos mapped]

/-- Under `READ_MODEL = latch` the power-on part leaves RS and E low (42_controller.md R174). -/
theorem quiet_after_power (model : c.readModel = .latch) (distinct : c.pins.distinct = true) :
    Quiet c.pins (playEnd c x n (powerScript c)) := by
  obtain ⟨⟨re, -⟩, -⟩ := PinMap.distinct.ne distinct
  have latch : (playEnd c x n (powerScript c)).latch =
      setbit (setbit (setbit x.latch c.pins.bl.val true) c.pins.rs.val false) c.pins.e.val false := by
    simp [powerScript, playEnd, Act.after, model, pin_not_above_seven]
  refine ⟨⟨lcdPins_output_after_power x n, ?_⟩, ?_⟩ <;> rw [latch]
  · exact getLsbD_setbit_self _ _ _
  · rw [getLsbD_setbit_other _ _ re, getLsbD_setbit_self]

/-- The power-on wait is longer than a clear-display (70_reset_and_hazards.md R266, R275). -/
theorem Config.wellFormed.power_long {c : Config} (h : c.wellFormed = true) : clearMicros ≤ c.tPower * c.tUnit := by
  simp only [Config.wellFormed, Config.waitsOk, Bool.and_eq_true, decide_eq_true_eq] at h
  have power : 100000 ≤ c.tPower := by omega
  have unit : 1 ≤ c.tUnit := by omega
  calc clearMicros ≤ 100000 * 1 := by decide
    _ ≤ c.tPower * c.tUnit := Nat.mul_le_mul power unit

/-- After the power-on wait the controller has finished what it executed, whatever it captured before. -/
theorem finished_after_power (wf : c.wellFormed = true) (d : Nat → LcdDraw) (l : Lcd) :
    (Lcd.observe c d x (playEvents c x n (powerScript c)) l).clearing = false := by
  have cut : powerScript c = (powerScript c).dropLast ++ [.pause c.tPower] := rfl
  have out : (playEnd c x n (powerScript c).dropLast).dir.getLsbD c.pins.e.val = false := by
    have whole := lcdPins_output_after_power (c := c) x n c.pins.e (by simp [lcdPins])
    rwa [cut, playEnd_append] at whole
  rw [cut, observe_play_append (Config.wellFormed.regs_ne wf) _ _ _ _ _ out, observe_pause out,
    Lcd.elapse_wait (Config.wellFormed.power_long wf)]

/-- The cold start's script: up to the power-on wait, the four nibbles, and the six commands. -/
theorem observe_cold (wf : c.wellFormed = true) (model : c.readModel = .latch)
    (hb : ∀ b ∈ coldBytes c, highNibble b ≠ 0x3#4) (d : Nat → LcdDraw) (l : Lcd) :
    ∃ before, (Lcd.observe c d x (playEvents c x n (coldScript c)) l).iface = .fourHi ∧
      (Lcd.observe c d x (playEvents c x n (coldScript c)) l).received =
        before ++ (coldBytes c).map fun b => (false, b) := by
  have regs := Config.wellFormed.regs_ne wf
  have distinct := Config.wellFormed.distinct wf
  have quiet := quiet_after_power x n model distinct
  rw [coldScript_eq, observe_play_append regs _ _ _ _ _ quiet.enable]
  obtain ⟨-, l₁, synchronises, commanded⟩ :=
    (Takes.nibbles regs distinct model).append regs (Takes.commands regs distinct hb) _ quiet _ _ _
  exact ⟨l₁.received, commanded (synchronises (finished_after_power x n wf d l))⟩

end

/-- Settles O58: the new events are those of the cold start's script. -/
theorem coldStartLeavesTheLcdSynchronisedAndConfigured :
    Obligations.ColdStartLeavesTheLcdSynchronisedAndConfigured := by
  intro s d l idle cold ok wf model hb
  obtain ⟨t, h, done, -, -⟩ := exec_init_completes idle cold ok
  obtain ⟨before, iface, received⟩ := observe_cold s.x s.draws wf model hb d l
  rw [← newEvents_of_completes done] at iface received
  exact ⟨t, before, h, iface, received⟩

end Sys2Proof.Machine
end

section
/-! PROOFS. O40, O41 and O42: CLEAR and CLEARLINE (43_host_operations.md R200–R202, R209). Their statements are scripts
with writes of the session registers in between. `Played` reads of its first state what a request starts from, so the
session registers that a run leaves are told by putting them into that state. -/

namespace Sys2Proof.Machine

/-! ## Scripts with writes of the session registers in between -/

/-- The state with other session registers (10_state.md R22, R23). -/
def State.withSession (s : State) (initialized : Bool) (line : Line) : State :=
  { s with initialized := initialized, currentLine := line }

/-- While the transport answers, the statements `ms` run from `s` as the script `as` does, and leave the session
registers at `initialized` and `line`. -/
def Plays (s : State) (ms : List Micro) (as : List Act) (initialized : Bool) (line : Line) : Prop :=
  transportOk (scriptTransports as) s.failures = true → Played (s.withSession initialized line) (s.run ms) as

theorem Played.trans {s u t : State} {as bs : List Act} (h : Played s u as) (k : Played u t bs) :
    Played s t (as ++ bs) := by
  obtain ⟨events, expander⟩ :=
    play_draws_congr bs (draws_congr s.cfg s.draws (scriptReads as)) (playEnd s.cfg s.x s.draws as)
  exact
    { phase := k.phase, cfg := k.cfg.trans h.cfg, initialized := k.initialized.trans h.initialized,
      currentLine := k.currentLine.trans h.currentLine, fault := k.fault.trans h.fault, resp := k.resp.trans h.resp,
      host := k.host.trans h.host
      x := by rw [k.x, h.cfg, h.x, h.draws, expander, playEnd_append]
      trace := by rw [k.trace, h.cfg, h.x, h.draws, events, h.trace, playEvents_append, List.append_assoc]
      failures := by rw [k.failures, h.failures, consumeDraws_add, scriptTransports_append]
      draws := by rw [k.draws, h.cfg, h.draws, drawsPlus_add, scriptReads_append] }

section
variable {s : State} {ms ns : List Micro} {as bs : List Act} {initialized : Bool} {line : Line}

theorem Plays.performs (h : Plays s ms as initialized line) (k : Performs s.cfg ns bs) :
    Plays s (ms ++ ns) (as ++ bs) initialized line := by
  intro ok
  rw [scriptTransports_append] at ok
  have first := h (transportOk_mono (Nat.le_add_right _ _) ok)
  rw [run_append]
  exact first.trans (k _ first.cfg first.phase (by rw [first.failures]; exact transportOk_consume _ _ _ ok))

theorem Plays.setInitialized (h : Plays s ms as initialized line) :
    Plays s (ms ++ [.setInitialized]) as true line := by
  intro ok
  have before := h ok
  rw [run_append, run_setInitialized before.phase]
  exact { before with initialized := rfl }

theorem Plays.setLine (h : Plays s ms as initialized line) (l : Line) :
    Plays s (ms ++ [.setLine l]) as initialized l := by
  intro ok
  have before := h ok
  rw [run_append, run_setLine before.phase]
  exact { before with currentLine := rfl }

/-- Nothing has run yet. -/
theorem Plays.start (busy : s.phase = .busy) : Plays s [] [] s.initialized s.currentLine :=
  Performs.nil s.cfg s rfl busy

/-- The ensure-initialised check leaves the block initialised, after the cold start if it was not (42_controller.md
R176). -/
theorem Plays.ensure (busy : s.phase = .busy) :
    Plays s (ensureInitialized s) (ensureScript s.cfg s.initialized) true s.currentLine := by
  have start := Plays.start busy
  rw [ensureInitialized]
  cases ready : s.initialized with
  | true  => rw [ready] at start; exact start
  | false => rw [if_neg (by decide), coldStart_eq]; exact (start.performs (.cold s.cfg)).setInitialized

/-- A request completes as its statements play. -/
theorem Plays.completes {i : Instr} (h : Plays (s.accept i (expansionOf s i)) ms as initialized line)
    (idle : s.phase = .idle) (e : expansionOf s i = ms ++ [.respond])
    (ok : transportOk (scriptTransports as) s.failures = true) :
    ∃ t, exec i s = .next t ∧ t.initialized = initialized ∧ t.currentLine = line ∧
      Completes s t (playEnd s.cfg s.x s.draws as) (playEvents s.cfg s.x s.draws as) 0 := by
  have played := h ok
  refine ⟨_, exec_idle idle i, ?_⟩
  rw [e] at played ⊢
  rw [run_append, run_respond played.phase, complete_busy (by exact played.phase)]
  exact ⟨played.initialized, played.currentLine, rfl, rfl, played.fault, played.cfg, played.host, played.x,
    played.trace, rfl⟩

end

theorem scriptTransports_ensure (c : Config) (initialized : Bool) :
    scriptTransports (ensureScript c initialized) = initTransports initialized := by
  cases initialized
  · exact scriptTransports_cold c
  · rfl

/-! ## The counts of the two scripts -/

section
variable (c : Config) (x : Expander) (d : Nat)

theorem countEvents_clearScript : countEvents (playEvents c x d (clearScript c)) =
    { rd := 6, wr := 14, wait := 12 + extraEvents c, total := 32 + extraEvents c } := by
  simp only [clearScript, playEvents_append, countEvents_append, countEvents_sendScript, countEvents_extraScript,
    Counts.plus, Counts.mk.injEq, true_and]
  constructor <;> omega

theorem countEvents_spacesScript (n : Nat) : countEvents (playEvents c x d (spacesScript c n)) =
    { rd := 3 * n, wr := 7 * n, wait := 6 * n, total := 16 * n } := by
  induction n generalizing x d with
  | zero => rfl
  | succ n ih =>
    simp only [spacesScript, playEvents_append, countEvents_append, countEvents_sendScript, ih, Counts.plus,
      Counts.mk.injEq]
    omega

theorem countEvents_clearlineScript (l : Line) (columns : c.columns = 16) :
    countEvents (playEvents c x d (clearlineScript c l)) = { rd := 51, wr := 119, wait := 102, total := 272 } := by
  rw [clearlineScript, playEvents_append, countEvents_append, countEvents_sendScript, countEvents_spacesScript, columns]
  rfl

end

/-! ## CLEAR and CLEARLINE -/

/-- Settles O40: the ensure-initialised check, then CLEAR's script. -/
theorem clearSendsClearThenHome : Obligations.ClearSendsClearThenHome := by
  intro s idle ok
  have plays : Plays (s.accept .clear (expansionOf s .clear)) (ensureInitialized s ++ clearBody s.cfg)
      (ensureScript s.cfg s.initialized ++ clearScript s.cfg) true s.currentLine :=
    (Plays.ensure rfl).performs (.clear s.cfg)
  obtain ⟨t, h, initialized, line, done⟩ := plays.completes idle rfl
    (by rwa [scriptTransports_append, scriptTransports_ensure, scriptTransports_clear])
  refine ⟨t, h, initialized, line, done, fun ready defaults => ?_⟩
  rw [newEvents_of_completes done, ready]
  exact (countEvents_clearScript s.cfg s.x s.draws).trans (by rw [defaults]; rfl)

/-- Settles O41: the ensure-initialised check, the set-cursor byte, the line recorded, the spaces. -/
theorem clearlineWritesOneSpacePerColumn : Obligations.ClearlineWritesOneSpacePerColumn := by
  intro l s idle columns ok
  have plays : Plays (s.accept (.clearline l) (expansionOf s (.clearline l)))
      (ensureInitialized s ++ sendByteBody s.cfg (cursorByte s.cfg (lineRow l) 0) false ++ [.setLine l] ++
        spaces s.cfg s.cfg.columns)
      (ensureScript s.cfg s.initialized ++ sendScript s.cfg (cursorByte s.cfg (lineRow l) 0) false ++
        spacesScript s.cfg s.cfg.columns) true l :=
    (((Plays.ensure (s := s.accept (.clearline l) _) rfl).performs (.sendByte s.cfg _ false)).setLine l).performs
      (.spaces s.cfg _)
  rw [List.append_assoc (ensureScript _ _), ← clearlineScript] at plays
  obtain ⟨t, h, initialized, line, done⟩ := plays.completes idle
    (by simp [expansionOf, clearlineBody, lineselBody])
    (by rwa [scriptTransports_append, scriptTransports_ensure, scriptTransports_clearline s.cfg l columns])
  refine ⟨t, h, initialized, line, done, fun ready => ?_⟩
  rw [newEvents_of_completes done, ready]
  exact countEvents_clearlineScript s.cfg s.x s.draws l columns

/-! ## A run of requests -/

/-- A request that completed leaves the transport's draws after its own. -/
theorem transportOk_of_completed {i : Instr} {s t : State} {m n : Nat} (h : exec i s = .next t) (idle : t.phase = .idle)
    (count : microTransports (expansionOf s i) = m) (ok : transportOk (m + n) s.failures = true) :
    transportOk n t.failures = true := by
  rw [failures_of_safe h (by rw [State.Safe, idle]; decide), count]
  exact transportOk_consume m n s.failures ok

theorem microTransports_linesel (s : State) (l : Line) : microTransports (expansionOf s (.linesel l)) = 10 := by
  rw [expansionOf, lineselBody, microTransports_append, microTransports_append, microTransports_sendByteBody,
    scriptTransports_send]
  rfl

theorem microTransports_clearExtra (c : Config) : microTransports (clearExtra c) = 0 := by
  unfold clearExtra
  split <;> rfl

theorem microTransports_clear {s : State} (ready : s.initialized = true) :
    microTransports (expansionOf s .clear) = 20 := by
  simp only [expansionOf, ensureInitialized, ready, clearBody, microTransports_append, microTransports_sendByteBody,
    scriptTransports_send, microTransports_clearExtra]
  rfl

/-- Settles O42: each request leaves the transport's draws for the next, CLEAR leaves the line that LINESEL recorded,
and LINESEL cur goes to it. -/
theorem clearLeavesTheCurrentLineRecord : Obligations.ClearLeavesTheCurrentLineRecord := by
  intro s idle ready ok
  obtain ⟨t, select, tReady, tLine, ⟨tIdle, -⟩⟩ :=
    exec_linesel_completes .bottom idle (transportOk_mono (by decide) ok)
  rw [ready] at tReady
  have tOk : transportOk 30 t.failures = true := transportOk_of_completed select tIdle (microTransports_linesel s _) ok
  obtain ⟨u, clear, -, uLine, ⟨uIdle, -⟩, -⟩ := clearSendsClearThenHome t tIdle
    (transportOk_mono (by rw [tReady]; decide) tOk)
  have uOk : transportOk 10 u.failures = true := transportOk_of_completed clear uIdle (microTransports_clear tReady) tOk
  have uBottom : u.currentLine = .bottom := uLine.trans tLine
  obtain ⟨returns, -⟩ :=
    lineselSendsTheLineStartAndRecordsTheLine u .lineselCur .bottom uIdle (.inr ⟨rfl, uBottom.symm⟩)
  obtain ⟨v, again, -, vLine, ⟨vIdle, -, -, -, -, -, vTrace, -⟩⟩ := returns uOk
  exact ⟨t, u, v, select, clear, again, uBottom, vLine, vIdle, vTrace⟩

end Sys2Proof.Machine
end

section
/-! PROOFS. O43 to O46: the text operations as the host expands them (43_host_operations.md R203–R207, R210). A text
whose characters encode is sent whole, one that has a character above 0xFF is refused whole; of a padded and cut text
only the characters up to the width decide. -/

namespace Sys2Proof.Machine

/-! ## One text -/

/-- The SENDCHARs of a text whose characters encode (43_host_operations.md R203). -/
def charRequests (s : Text) : List Instr := s.map fun ch => .sendchar (BitVec.ofNat 8 ch.toNat)

theorem textRequests_of_encodable {s : Text} (h : ∀ ch ∈ s, ch.toNat ≤ 0xFF) :
    textRequests s = some (charRequests s) := by
  induction s with
  | nil => rfl
  | cons ch s ih =>
    obtain ⟨first, rest⟩ := List.forall_mem_cons.mp h
    rw [textRequests, charRequest, if_pos first, ih rest]
    rfl

theorem textRequests_of_unencodable {s : Text} (h : ∃ ch ∈ s, ch.toNat > 0xFF) : textRequests s = none := by
  induction s with
  | nil => obtain ⟨_, absent, -⟩ := h; cases absent
  | cons ch s ih =>
    obtain ⟨bad, mem, high⟩ := h
    obtain rfl | later := List.mem_cons.mp mem
    · rw [textRequests, charRequest, if_neg (Nat.not_le.mpr high)]
    · rw [textRequests, ih ⟨bad, later, high⟩]
      cases charRequest ch <;> rfl

theorem withText_of_encodable (prologue : List Instr) {s : Text} (h : ∀ ch ∈ s, ch.toNat ≤ 0xFF) :
    withText prologue s = some (prologue ++ charRequests s) := by
  rw [withText, textRequests_of_encodable h]

theorem withText_of_unencodable (prologue : List Instr) {s : Text} (h : ∃ ch ∈ s, ch.toNat > 0xFF) :
    withText prologue s = none := by
  rw [withText, textRequests_of_unencodable h]

/-- A refused operation issues no request (43_host_operations.md R207). -/
theorem refused_issues_nothing {op : Option (List Instr)} (refused : op = none) (t : State) :
    op = none ∧ t.issue op = t := by
  subst refused
  exact ⟨rfl, rfl⟩

/-! ## A text padded and cut to the width of a line -/

/-- A line is the text cut to the width, then spaces. -/
theorem fitLine_eq (n : Nat) (s : Text) : fitLine n s = s.take n ++ List.replicate (n - s.length) ' ' := by
  rw [fitLine, List.take_append, List.take_replicate, Nat.min_eq_left (Nat.sub_le _ _)]

theorem fitLine_length (n : Nat) (s : Text) : (fitLine n s).length = n := by
  simp [fitLine]

theorem fitLine_idem (n : Nat) (s : Text) : fitLine n (fitLine n s) = fitLine n s := by
  rw [fitLine, List.take_left' (fitLine_length n s)]

theorem fitLine_encodable {n : Nat} {s : Text} (h : ∀ ch ∈ s.take n, ch.toNat ≤ 0xFF) :
    ∀ ch ∈ fitLine n s, ch.toNat ≤ 0xFF := by
  intro ch hch
  rw [fitLine_eq, List.mem_append] at hch
  obtain inText | inPadding := hch
  · exact h ch inText
  · rw [List.eq_of_mem_replicate inPadding]; decide

theorem fitLine_unencodable {n : Nat} {s : Text} (h : ∃ ch ∈ s.take n, ch.toNat > 0xFF) :
    ∃ ch ∈ fitLine n s, ch.toNat > 0xFF := by
  obtain ⟨ch, inText, above⟩ := h
  exact ⟨ch, by rw [fitLine_eq]; exact List.mem_append_left _ inText, above⟩

/-! ## The operations -/

/-- Settles O43: a text that is not refused has no character above 0xFF up to the width, and its line is sent. -/
theorem writeLineSendsSixteenCharacters : Obligations.WriteLineSendsSixteenCharacters := by
  refine fun c l s => ⟨fun is issued => ?_, fitLine_idem _ s, fitLine_length _ s,
    fun h => ⟨_, withText_of_encodable _ (fitLine_encodable h)⟩, rfl⟩
  have encodable : ∀ ch ∈ fitLine c.columns s, ch.toNat ≤ 0xFF := by
    by_contra h
    push Not at h
    rw [writeLine, withText_of_unencodable _ h] at issued
    cases issued
  rw [writeLine, withText_of_encodable _ encodable] at issued
  cases issued
  refine ⟨charRequests (fitLine c.columns s), rfl, by rw [charRequests, List.length_map, fitLine_length],
    fun k hk => ?_⟩
  have inLine : k < (fitLine c.columns s).length := by rwa [fitLine_length]
  have found := List.getElem?_eq_getElem inLine
  refine ⟨(fitLine c.columns s)[k], ?_, encodable _ (List.getElem_mem inLine), ?_⟩
  · rw [← found, fitLine, List.getElem?_take_of_lt hk]
  · rw [charRequests, List.getElem?_map, found]; rfl

theorem cursorByte_clamped (c : Config) (row col : Int) :
    cursorByte c ((if row > 0 then 1 else 0 : Nat) : Int) (clampedColumn c.columns col) = cursorByte c row col := by
  have clamped := clampedColumn_of_le (clampedColumn_le c.columns col)
  have line : lineBase c ((if row > 0 then 1 else 0 : Nat) : Int) = lineBase c row := by
    unfold lineBase
    split <;> rfl
  rw [cursorByte, cursorByte, position, position, clamped, line]

/-- Settles O44: the text is sent whole; a row above 0 selects the bottom line as 1 does, and a clamped column is its own
clamp. -/
theorem writeTextMovesThenSendsEveryCharacter : Obligations.WriteTextMovesThenSendsEveryCharacter := by
  refine fun c row col s h => ⟨withText_of_encodable _ h, fun width => ?_, cursorByte_clamped c row col⟩
  have inside := clampedColumn_le c.columns col
  have row : (if row > 0 then 1 else 0 : Nat) ≤ 15 := by split <;> decide
  simp only [Instr.wellFormed, fitsNibble, fitsColumn, Bool.and_eq_true, decide_eq_true_eq]
  exact ⟨row, by omega, by omega⟩

/-- Settles O45: the line of the number's text, or of the labelled text, is sent. -/
theorem logWritesToTheRecordedLine : Obligations.LogWritesToTheRecordedLine :=
  fun _ _ _ _ => ⟨fun h => withText_of_encodable _ (fitLine_encodable h),
    fun h => withText_of_encodable _ (fitLine_encodable h)⟩

/-- Settles O46: the character is among those that the operation sends, so none is. -/
theorem unencodableTextIssuesNoRequest : Obligations.UnencodableTextIssuesNoRequest :=
  fun _ _ _ _ _ _ _ t =>
    ⟨fun h => refused_issues_nothing (withText_of_unencodable _ (fitLine_unencodable h)) t,
     fun h => refused_issues_nothing (withText_of_unencodable _ h) t,
     fun h => refused_issues_nothing (withText_of_unencodable _ (fitLine_unencodable h)) t,
     fun h => refused_issues_nothing (withText_of_unencodable _ (fitLine_unencodable h)) t⟩

end Sys2Proof.Machine
end

section
/-! PROOFS. O5, O6 and O7: the phases (10_state.md R25, 60_exceptions.md R229, R231, R234). -/

namespace Sys2Proof.Machine

theorem step_blockReset {s : State} {rest : List HostMove} (host : s.host = .blockReset :: rest) :
    step s = .next ({ s with host := rest } : State).blockReset := by
  simp [step, hostStep, host]

/-- Settles O5: the word decoded is the request executed. -/
theorem stepRunsTheDecodedRequest : Obligations.StepRunsTheDecodedRequest :=
  fun _ _ _ _ idle host decoded => (step_request idle host).trans (runWord_ok decoded _)

/-- Settles O6: the two ends of an accepted request, and no request accepted in another phase. -/
theorem requestsAreAcceptedOnlyWhileIdleAndRunToCompletion :
    Obligations.RequestsAreAcceptedOnlyWhileIdleAndRunToCompletion := by
  refine fun i s => ⟨fun idle => ⟨_, exec_idle idle i, ?_, position_of_complete_run rfl _⟩, fun notIdle t h => ?_⟩
  · exact (complete_accept_run s i (expansionOf s i)).imp And.right And.right
  · obtain ⟨idle, -⟩ := exec_next h
    exact notIdle idle

/-- Settles O7: of everything a step can do, a FAULTED block can fault or be reset. -/
theorem faultedIsLeftOnlyByBlockReset : Obligations.FaultedIsLeftOnlyByBlockReset := by
  refine fun s faulted => ⟨fun i => ?_, fun noReset => ?_, fun rest host => ?_⟩
  · rw [exec_eq_offer, offer_faulted faulted]
  · obtain ⟨rest, host, -⟩ | ⟨-, stuck⟩ | ⟨busy, -⟩ | ⟨idle, -⟩ | ⟨_, _, _, idle, -⟩ | ⟨_, _, _, idle, -⟩ :=
      step_cases s
    · exact absurd host (noReset rest)
    · exact stuck
    · cases faulted.symm.trans busy
    all_goals cases faulted.symm.trans idle
  · exact ⟨_, step_blockReset host, rfl, rfl⟩

end Sys2Proof.Machine
end

section
/-! PROOFS. A request and the transport's draws (60_exceptions.md R224, R228). While the transport answers, a run goes
on, emits the event of each of its primitives, and does what it does under a transport that never fails; so a request
is followed up to the primitive that fails. -/

namespace Sys2Proof.Machine

/-! ## A transport that never fails -/

/-- The state with a transport that never fails (60_exceptions.md R224, log 2). -/
def State.reliable (s : State) : State := { s with failures := [] }

theorem takeDraw_reliable (s : State) (r : Reg) : s.reliable.takeDraw r = (s.takeDraw r).reliable := by
  cases r
  · rfl
  · simp only [takeDraw_latch]; rfl

theorem readValue_reliable (s : State) (r : Reg) : s.reliable.readValue r = s.readValue r := by cases r <;> rfl

theorem action_reliable (s : State) (m : Micro) : m.action s.reliable = m.action s := by
  cases m with
  | read r => rw [Micro.action, readValue_reliable]; rfl
  | _      => rfl

theorem expansionOf_reliable (s : State) (i : Instr) : expansionOf s.reliable i = expansionOf s i := by cases i <;> rfl

/-! ## One statement that the transport answers -/

/-- The events that a statement emits when the transport answers (10_state.md R31). -/
def Micro.events (s : State) (m : Micro) : List Event :=
  match m with
  | .wait n => [evWait n]
  | m       => (m.action s).toList.map fun a => { action := a, failed := false }

theorem events_of_action {s : State} {m : Micro} {a : Action} (h : m.action s = some a) :
    m.events s = [⟨a, false⟩] := by
  cases m <;> cases h <;> rfl

theorem countP_events (s : State) (m : Micro) :
    (m.events s).countP Event.isTransport = if m.isTransport then 1 else 0 := by
  cases m <;> rfl

/-- A piece `f` of a run from `s` that the transport answers: the phase and the host's moves stay, the events `es` are
appended, and under a transport that never fails the piece does the same. -/
structure Answered (f : State → State) (s : State) (es : List Event) : Prop where
  phase    : (f s).phase = s.phase
  host     : (f s).host = s.host
  trace    : (f s).trace = s.trace ++ es
  reliable : f s.reliable = (f s).reliable

theorem Answered.comp {f g : State → State} {s : State} {es fs : List Event} (h : Answered f s es)
    (k : Answered g (f s) fs) : Answered (fun t => g (f t)) s (es ++ fs) where
  phase    := k.phase.trans h.phase
  host     := k.host.trans h.host
  trace    := by rw [k.trace, h.trace, List.append_assoc]
  reliable := by rw [h.reliable, k.reliable]

/-- A change that emits nothing and does not look at the draws. -/
theorem Answered.silent {f : State → State} {s : State} (phase : (f s).phase = s.phase) (host : (f s).host = s.host)
    (trace : (f s).trace = s.trace) (reliable : f s.reliable = (f s).reliable) : Answered f s [] :=
  ⟨phase, host, by rw [trace, List.append_nil], reliable⟩

/-- A transport primitive that is answered, after `n` port-level draws; its effect writes at most `W` and the
expander. -/
theorem Answered.transport {f : State → State} {s : State} (n : Nat) {a : Action} {effect : State → State}
    (answers : nextFails s.failures = false) (hf : f s = State.transport { s with draws := n } a effect)
    (hr : f s.reliable = State.transport { s.reliable with draws := n } a effect)
    (writes : ∀ t, effect t = { t with w := (effect t).w, x := (effect t).x })
    (blind : ∀ t, effect t.reliable = (effect t).reliable) : Answered f s [⟨a, false⟩] := by
  rw [transport_ok (by exact answers)] at hf
  rw [transport_ok rfl] at hr
  refine ⟨by rw [hf, writes]; rfl, by rw [hf, writes]; rfl, by rw [hf, writes]; rfl, ?_⟩
  rw [hr, hf, ← blind]
  rfl

theorem Answered.write {f : State → State} {s : State} {a : Action} {r : Reg} {v : Byte}
    (answers : nextFails s.failures = false) (hf : f s = s.transport a fun t => t.setReg r v)
    (hr : f s.reliable = s.reliable.transport a fun t => t.setReg r v) : Answered f s [⟨a, false⟩] :=
  .transport s.draws answers hf hr (fun _ => rfl) (fun _ => rfl)

theorem Answered.doMicro {s : State} {m : Micro} (answers : m.isTransport = true → nextFails s.failures = false) :
    Answered (·.doMicro m) s (m.events s) := by
  cases m with
  | read r =>
    refine .transport (s.takeDraw r).draws (effect := fun t => t.setWork (s.readValue r)) (answers rfl) ?_ ?_
      (fun _ => rfl) (fun _ => rfl)
    · rw [State.doMicro, State.memRead, takeDraw_eq]
    · rw [State.doMicro, State.memRead, takeDraw_reliable, takeDraw_eq, readValue_reliable]; rfl
  | writeW | writeWBit | writeByte | writeBuf => exact .write (answers rfl) rfl rfl
  | wait n => exact ⟨rfl, rfl, rfl, rfl⟩
  | _      => exact .silent rfl rfl rfl rfl

theorem Answered.perform {s : State} {m : Micro} (busy : s.phase = .busy)
    (answers : m.isTransport = true → nextFails s.failures = false) :
    Answered (·.perform m) s (m.events s) := by
  obtain ⟨phase, host, trace, reliable⟩ := Answered.doMicro (s := s.advance) (m := m) answers
  have events : m.events s.advance = m.events s := by cases m <;> rfl
  refine ⟨?_, ?_, ?_, ?_⟩
  · rw [perform_busy busy]; exact phase
  · rw [perform_busy busy]; exact host
  · rw [perform_busy busy, trace, events]; rfl
  · rw [perform_busy busy, perform_busy (by exact busy)]; exact reliable

/-! ## A run that the transport answers -/

/-- A transport that answers a list of statements answers the first, and then the others. -/
theorem transportOk_cons {m : Micro} {ms : List Micro} {fs : List Nat}
    (ok : transportOk (microTransports (m :: ms)) fs = true) :
    (m.isTransport = true → nextFails fs = false) ∧
      transportOk (microTransports ms) (if m.isTransport then consumeDraw fs else fs) = true := by
  by_cases hm : m.isTransport = true
  · rw [microTransports, List.countP_cons_of_pos hm, transportOk_succ, Bool.and_eq_true, Bool.not_eq_true'] at ok
    obtain ⟨answers, later⟩ := ok
    rw [if_pos hm]
    exact ⟨fun _ => answers, later⟩
  · rw [microTransports, List.countP_cons_of_neg hm] at ok
    rw [if_neg hm]
    exact ⟨fun h => absurd h hm, ok⟩

/-- A run whose every transport primitive is answered; the draws it takes are told by `failures_of_run_busy`. -/
theorem Answered.run {s : State} {ms : List Micro} (busy : s.phase = .busy)
    (ok : transportOk (microTransports ms) s.failures = true) :
    ∃ es, Answered (·.run ms) s es ∧ es.countP Event.isTransport = microTransports ms := by
  induction ms generalizing s with
  | nil => exact ⟨[], .silent rfl rfl rfl rfl, rfl⟩
  | cons m ms ih =>
    obtain ⟨answers, later⟩ := transportOk_cons ok
    have first : Answered (·.perform m) s (m.events s) := .perform busy answers
    obtain ⟨es, rest, count⟩ := ih (s := s.perform m) (first.phase.trans busy)
      (by rwa [perform_busy busy, doMicro_failures])
    refine ⟨m.events s ++ es, first.comp rest, ?_⟩
    rw [List.countP_append, countP_events, count, microTransports, microTransports, List.countP_cons, Nat.add_comm]

/-! ## The statement whose primitive fails -/

/-- The transport primitive number `k` of a list of statements, counted from 0, is that of one of them. -/
theorem exists_statement_of_transport {k : Nat} {ms : List Micro} (h : k < microTransports ms) :
    ∃ as m bs, ms = as ++ m :: bs ∧ m.isTransport = true ∧ microTransports as = k := by
  induction ms generalizing k with
  | nil => cases h
  | cons n ms ih =>
    by_cases hn : n.isTransport = true
    · rw [microTransports, List.countP_cons_of_pos hn] at h
      cases k with
      | zero   => exact ⟨[], n, ms, rfl, hn, rfl⟩
      | succ k =>
        obtain ⟨as, m, bs, rfl, hm, count⟩ := ih (Nat.lt_of_succ_lt_succ h)
        exact ⟨n :: as, m, bs, rfl, hm, by rw [← count]; exact List.countP_cons_of_pos hn⟩
    · rw [microTransports, List.countP_cons_of_neg hn] at h
      obtain ⟨as, m, bs, rfl, hm, count⟩ := ih h
      exact ⟨n :: as, m, bs, rfl, hm, by rw [← count]; exact List.countP_cons_of_neg hn⟩

/-- A statement `p` without a transport primitive stands before the failing statement `m`, or after it; the counts of
the primitives before the two say which. -/
theorem before_or_after {as bs ps qs : List Micro} {m p : Micro} (h : as ++ m :: bs = ps ++ p :: qs)
    (hm : m.isTransport = true) (hp : p.isTransport = false) :
    (microTransports ps ≤ microTransports as ∧ ∃ cs, as = ps ++ p :: cs ∧ qs = cs ++ m :: bs) ∨
    (microTransports as < microTransports ps ∧ ∃ cs, ps = as ++ m :: cs) := by
  obtain ⟨cs, rfl, e⟩ | ⟨cs, rfl, e⟩ := List.append_eq_append_iff.mp h
  · cases cs with
    | nil => cases e; cases hm.symm.trans hp
    | cons n cs =>
      cases e
      refine .inr ⟨?_, cs, rfl⟩
      rw [microTransports_append, microTransports, microTransports, List.countP_cons_of_pos hm]
      omega
  · cases cs with
    | nil => cases e; cases hm.symm.trans hp
    | cons n cs =>
      cases e
      exact .inl ⟨by rw [microTransports_append]; omega, cs, rfl, rfl⟩

/-- What a fault leaves of a trace ends with the failing event, marked (60_exceptions.md R228). -/
theorem faultPrefix_append (es fs : List Event) {a : Action} (ha : (⟨a, false⟩ : Event).isTransport = true) :
    faultPrefix (es.countP Event.isTransport) (es ++ ⟨a, false⟩ :: fs) = es ++ [⟨a, true⟩] := by
  induction es with
  | nil => simp [faultPrefix, ha]
  | cons e es ih =>
    by_cases he : e.isTransport = true
    · rw [List.countP_cons_of_pos he]; simp [faultPrefix, he, ih]
    · rw [List.countP_cons_of_neg he]; simp [faultPrefix, he, ih]

/-! ## The fault -/

theorem isTransport_of_action {s : State} {m : Micro} {a : Action} (h : m.action s = some a) (failed : Bool) :
    (⟨a, failed⟩ : Event).isTransport = true := by
  cases m <;> cases h <;> rfl

/-- Only a wait records nothing (10_state.md R26). -/
theorem record_ne_none_of_isTransport {a : Action} {failed : Bool} (h : (⟨a, failed⟩ : Event).isTransport = true) :
    a.record ≠ none := by
  cases a with
  | wait         => cases h
  | rd | wr | wb => exact Option.some_ne_none _

/-- The state that a request has reached on `s` after the statements `as`. -/
def State.reached (s : State) (i : Instr) (as : List Micro) : State := (s.accept i (expansionOf s i)).run as

/-- The transport primitive number `k` of the request `i` on `s` is the primitive `a` of the statement `m`, and it
fails; the statements `as` before it were answered, with the events `es`. -/
structure FailsAt (i : Instr) (s : State) (k : Nat) (as : List Micro) (m : Micro) (bs : List Micro) (es : List Event)
    (a : Action) : Prop where
  cut       : expansionOf s i = as ++ m :: bs
  transport : m.isTransport = true
  number    : microTransports as = k
  answered  : Answered (·.run as) (s.accept i (expansionOf s i)) es
  events    : es.countP Event.isTransport = k
  action    : m.action (s.reached i as) = some a
  fails     : nextFails (s.reached i as).failures = true

theorem consumeDraws_until_failure (k : Nat) (ks : List Nat) : consumeDraws k (k :: ks) = 0 :: ks := by
  induction k with
  | zero => rfl
  | succ k ih => exact ih

/-- The draws name the primitive that fails (60_exceptions.md R224). -/
theorem exists_failsAt {i : Instr} {s : State} {k : Nat} {ks : List Nat} (draws : s.failures = k :: ks)
    (h : k < microTransports (expansionOf s i)) : ∃ as m bs es a, FailsAt i s k as m bs es a := by
  obtain ⟨as, m, bs, cut, hm, number⟩ := exists_statement_of_transport h
  have enough : transportOk (microTransports as) s.failures = true := by
    rw [draws, number]; exact decide_eq_true le_rfl
  obtain ⟨es, answered, counted⟩ := Answered.run (s := s.accept i (expansionOf s i)) rfl enough
  obtain ⟨a, action⟩ := exists_action_of_isTransport hm (s.reached i as)
  have ⟨_, taken⟩ := failures_of_run_busy answered.phase
  refine ⟨as, m, bs, es, a, cut, hm, number, answered, counted.trans number, action, ?_⟩
  rw [State.reached, taken, State.accept_failures, draws, number, consumeDraws_until_failure]
  rfl

section
variable {i : Instr} {s : State} {as bs : List Micro} {m : Micro} {k : Nat} {es : List Event} {a : Action}

theorem FailsAt.busy (h : FailsAt i s k as m bs es a) : (s.reached i as).phase = .busy := h.answered.phase

/-- Fault entry, after the statements that were answered (60_exceptions.md R228). -/
theorem FailsAt.exec (h : FailsAt i s k as m bs es a) (idle : s.phase = .idle) :
    ∃ t, exec i s = .next t ∧ Faults s t (s.reached i as).x es a ∧ SessionKept (s.reached i as) t := by
  obtain ⟨⟨phase, position, fault, cfg, host, x, trace, resp⟩, session⟩ := perform_faults h.busy h.action h.fails
  have ended : ((s.reached i as).perform m).phase ≠ .busy := by rw [phase]; decide
  have grown : Grows (s.accept i (expansionOf s i)) (s.reached i as) := .run _ _
  have outcome : ((s.accept i (expansionOf s i)).run (expansionOf s i)).complete = (s.reached i as).perform m := by
    rw [congrArg (State.run _) h.cut, run_append, run_cons]
    exact (congrArg State.complete (run_not_busy ended bs)).trans (complete_not_busy ended)
  refine ⟨_, (exec_idle idle i).trans (congrArg _ outcome), ⟨phase, position, fault, cfg.trans grown.cfg,
    host.trans h.answered.host, x, ?_, resp⟩, session⟩
  rw [trace, List.append_nil]
  exact congrArg (· ++ _) h.answered.trace

/-- The same request under a transport that never fails emits the same events before that primitive, and completes it
(60_exceptions.md R228). -/
theorem FailsAt.newEvents_reliable (h : FailsAt i s k as m bs es a) {u : State}
    (answered : Machine.exec i s.reliable = .next u) : ∃ fs, newEvents s u = es ++ ⟨a, false⟩ :: fs := by
  obtain ⟨-, rfl⟩ := exec_next answered
  have first : Answered (·.perform m) (s.reached i as).reliable [⟨a, false⟩] := by
    rw [← events_of_action ((action_reliable _ m).trans h.action)]
    exact .perform h.busy fun _ => rfl
  have run : (s.reliable.accept i (expansionOf s i)).run (expansionOf s i) =
      ((s.reached i as).reliable.perform m).run bs := by
    rw [congrArg (State.run _) h.cut, run_append, run_cons]
    exact congrArg (fun v => (State.perform v m).run bs) h.answered.reliable
  rw [expansionOf_reliable, run]
  obtain ⟨fs, grown⟩ := ((Grows.run ((s.reached i as).reliable.perform m) bs).trans (.complete _)).trace
  have reached : (s.reached i as).reliable.trace = s.trace ++ es := h.answered.trace
  refine ⟨fs, ?_⟩
  rw [newEvents, ← grown, first.trace, reached, List.append_assoc, List.append_assoc, List.drop_left]
  rfl

/-- The events before the fault account for the expander (20_memory.md R61). -/
theorem FailsAt.x_reached (h : FailsAt i s k as m bs es a) (regs : s.cfg.regDir ≠ s.cfg.regLatch) :
    (s.reached i as).x = s.x.replay s.cfg es := by
  obtain ⟨fs, traced⟩ := Traced.run (s := s.accept i (expansionOf s i)) regs as
  have same : fs = es := List.append_cancel_left (traced.trace.symm.trans h.answered.trace)
  exact same ▸ traced.x

end

end Sys2Proof.Machine
end

section
/-! PROOFS. O10 and O11: a request completes exactly when the transport answers all its primitives, and else the fault
is precise (60_exceptions.md R224, R227, R228). The primitives of a request are counted off its expansion, and so is
where it writes the session registers. -/

namespace Sys2Proof.Machine

/-! ## The transport primitives of a request -/

theorem Config.wellFormed.columns {c : Config} (h : c.wellFormed = true) : c.columns = 16 := by
  simp only [Config.wellFormed, Config.geometryOk, Bool.and_eq_true, decide_eq_true_eq] at h
  obtain ⟨-, ⟨⟨columns, -⟩, -⟩, -⟩ := h
  exact columns

theorem microTransports_rmwBit (r : Reg) (p : Nat) (l : Bool) :
    microTransports (rmwBit r p l) = if p > 7 then 0 else 2 := by
  unfold rmwBit
  split <;> rfl

theorem microTransports_spaces (c : Config) (n : Nat) : microTransports (spaces c n) = 10 * n := by
  induction n with
  | zero => rfl
  | succ n ih => rw [spaces, microTransports_append, microTransports_sendByteBody, scriptTransports_send, ih]; omega

theorem microTransports_ensureInitialized (s : State) :
    microTransports (ensureInitialized s) = initTransports s.initialized := by
  rw [ensureInitialized, initTransports]
  split
  · rfl
  · rw [coldStart_eq, microTransports_append, microTransports_coldPrimitives]; rfl

/-- A request issues the transport primitives that the spec counts (41_parallel_bus.md R144, 42_controller.md R174). -/
theorem microTransports_expansionOf {s : State} (columns : s.cfg.columns = 16) (i : Instr) :
    microTransports (expansionOf s i) = transports s.initialized i := by
  have answer : microTransports [.respond] = 0 := rfl
  have record : ∀ l, microTransports [.setLine l] = 0 := fun _ => rfl
  have send : ∀ b m, microTransports (sendByteBody s.cfg b m) = 10 := fun b m => by
    rw [microTransports_sendByteBody, scriptTransports_send]
  cases i with
  | setdir | rdlatch | wrlatch | nibble => rfl
  | pinmode p l | wrpin p l => rw [expansionOf, microTransports_append, answer]; exact microTransports_rmwBit _ p l
  | nibinit n =>
    rw [expansionOf, microTransports_append, microTransports_nibinitBody, scriptTransports_nibinit, answer]; rfl
  | sendbyte | sendcmd | sendchar | setcursor => rw [expansionOf, microTransports_append, send, answer]; rfl
  | linesel l => exact microTransports_linesel s l
  | lineselCur => exact microTransports_linesel s s.currentLine
  | init => rw [expansionOf, microTransports_append, microTransports_ensureInitialized, answer]; rfl
  | clear =>
    simp only [expansionOf, clearBody, microTransports_append, microTransports_ensureInitialized, send,
      microTransports_clearExtra, answer, transports]
  | clearline l =>
    simp only [expansionOf, clearlineBody, lineselBody, microTransports_append, microTransports_ensureInitialized, send,
      microTransports_spaces, columns, record, answer, transports]

/-- A transport that does not answer `n` primitives has a failure among their draws (60_exceptions.md R224). -/
theorem draws_of_not_transportOk {n : Nat} {fs : List Nat} (h : transportOk n fs = false) :
    ∃ k ks, fs = k :: ks ∧ k < n := by
  cases fs with
  | nil => cases h
  | cons k ks => exact ⟨k, ks, rfl, Nat.lt_of_not_le (of_decide_eq_false h)⟩

/-- Settles O10: an answered run reaches its end, and the first primitive that fails ends the request. -/
theorem requestCompletesExactlyWhenTheTransportAnswers :
    Obligations.RequestCompletesExactlyWhenTheTransportAnswers := by
  intro i s columns idle
  rw [← microTransports_expansionOf columns i]
  refine ⟨fun ok => ?_, fun fails => ?_⟩
  · obtain ⟨es, ran, -⟩ := Answered.run (s := s.accept i (expansionOf s i)) rfl ok
    have ended : ((s.accept i (expansionOf s i)).run (expansionOf s i)).complete.phase = .idle := by
      rw [complete_busy (by exact ran.phase)]
    obtain ⟨status, -⟩ := completedRequestsAnswerOk i s _ (exec_idle idle i) (by rw [State.Safe, ended]; decide)
    exact ⟨_, exec_idle idle i, ended, status⟩
  · obtain ⟨k, ks, draws, h⟩ := draws_of_not_transportOk fails
    obtain ⟨as, m, bs, es, a, failsAt⟩ := exists_failsAt draws h
    obtain ⟨t, ht, ⟨phase, -, -, -, -, -, -, resp⟩, -⟩ := failsAt.exec idle
    exact ⟨t, ht, phase, resp⟩

/-! ## The session registers at a fault -/

/-- The cold start sets the flag after its last primitive only: up to it, it performs a script, which keeps the session
registers (42_controller.md R174). -/
theorem setInitialized_not_mem_coldPrimitives (c : Config) : Micro.setInitialized ∉ coldPrimitives c := by
  intro hm
  have played := Performs.cold c ((State.powerOn c).reliable.accept .init []) rfl rfl rfl
  cases played.initialized.symm.trans (run_initialized_of_mem played.phase hm)

/-- CLEARLINE records its line after its set-cursor command, and nowhere else (43_host_operations.md R202). -/
theorem expansionOf_clearline_cut (s : State) (l : Line) :
    ∃ ps qs, expansionOf s (.clearline l) = ps ++ Micro.setLine l :: qs ∧
      microTransports ps = initTransports s.initialized + 10 ∧
      (∀ k, Micro.setLine k ∉ ps) ∧ ∀ k, Micro.setLine k ∉ qs := by
  have latch : Reg.latch ∈ (footprint s .clear).registers := latch_mem_publicRegisters _
  refine ⟨ensureInitialized s ++ sendByteBody s.cfg (cursorByte s.cfg (lineRow l) 0) false,
    spaces s.cfg s.cfg.columns ++ [.respond], by simp [expansionOf, clearlineBody, lineselBody], ?_,
    Within.setLine_not_mem (f := footprint s .clear) ?_ rfl, Within.setLine_not_mem (f := footprint s .clear) ?_ rfl⟩
  · rw [microTransports_append, microTransports_ensureInitialized, microTransports_sendByteBody, scriptTransports_send]
  · exact within_append.mpr ⟨.ensureInitialized rfl rfl, .sendByteBody latch _ _ _⟩
  · exact within_append.mpr ⟨.spaces latch _ _, by simp [Micro.within]⟩

section
variable {i : Instr} {s : State} {as bs : List Micro} {m : Micro} {k : Nat} {es : List Event} {a : Action}

/-- The flag is set when the fault comes after the cold start's last primitive (60_exceptions.md R228). -/
theorem FailsAt.initialized (h : FailsAt i s k as m bs es a) : (s.reached i as).initialized =
    (s.initialized || (ensuresInit i && decide (initTransports s.initialized ≤ k))) := by
  cases cold : s.initialized with
  | true => exact run_initialized_mono as cold
  | false =>
    cases needs : ensuresInit i with
    | false =>
      have absent := (within_footprint s i).setInitialized_not_mem ((footprint_initialized s i).trans needs)
      rw [h.cut] at absent
      exact (run_initialized_of_not_mem (fun hm => absent (List.mem_append_left _ hm)) _).trans cold
    | true =>
      obtain ⟨rest, e⟩ := expansionOf_of_cold cold needs
      rw [coldStart_eq, List.append_assoc] at e
      rw [initTransports, if_neg (by decide), ← microTransports_coldPrimitives s.cfg, ← h.number]
      obtain ⟨later, cs, rfl, -⟩ | ⟨before, cs, hcs⟩ := before_or_after (h.cut.symm.trans e) h.transport rfl
      · rw [decide_eq_true later]
        exact run_initialized_of_mem h.busy (by simp)
      · rw [decide_eq_false (Nat.not_le_of_lt before)]
        have absent := setInitialized_not_mem_coldPrimitives s.cfg
        rw [hcs] at absent
        exact (run_initialized_of_not_mem (fun hm => absent (List.mem_append_left _ hm)) _).trans cold

/-- The new line is recorded when the fault comes after CLEARLINE's set-cursor command (43_host_operations.md R202). -/
theorem FailsAt.currentLine_clearline {l : Line} (h : FailsAt (.clearline l) s k as m bs es a) :
    (s.reached (.clearline l) as).currentLine =
      if initTransports s.initialized + 10 ≤ k then l else s.currentLine := by
  obtain ⟨ps, qs, e, number, hps, hqs⟩ := expansionOf_clearline_cut s l
  rw [← number, ← h.number]
  obtain ⟨later, cs, rfl, rfl⟩ | ⟨before, cs, rfl⟩ := before_or_after (h.cut.symm.trans e) h.transport rfl
  · rw [if_pos later]
    exact run_currentLine_of_busy h.busy fun k hk => hqs k (List.mem_append_left _ hk)
  · rw [if_neg (Nat.not_le_of_lt before)]
    exact run_currentLine_of_not_mem (fun k hk => hps k (List.mem_append_left _ hk)) _

end

theorem currentLine_of_faulted {i : Instr} {s t : State} (h : exec i s = .next t) (faulted : t.phase = .faulted)
    (hi : ∀ l, i ≠ .clearline l) : t.currentLine = s.currentLine := by
  obtain ⟨other, select, -⟩ := onlyLineOperationsWriteTheCurrentLine i s t h
  by_cases hsel : ∃ l, i = .linesel l
  · obtain ⟨l, rfl⟩ := hsel
    rw [select l rfl, faulted]
    rfl
  · exact other (fun l e => hsel ⟨l, e⟩) hi

/-- Settles O11: the request is cut at the statement whose primitive fails; the events before it are those of the run
under a transport that never fails, and the session registers are as that statement found them. -/
theorem transportFaultIsPrecise : Obligations.TransportFaultIsPrecise := by
  intro i s u k ks wf idle draws hk hu
  rw [← microTransports_expansionOf (Config.wellFormed.columns wf)] at hk
  obtain ⟨as, m, bs, es, a, failsAt⟩ := exists_failsAt draws hk
  obtain ⟨t, ht, ⟨phase, position, fault, cfg, host, x, trace, resp⟩, initialized, currentLine⟩ :=
    failsAt.exec idle
  obtain ⟨fs, events⟩ := failsAt.newEvents_reliable hu
  have transport := isTransport_of_action failsAt.action false
  have cut : faultPrefix k (newEvents s u) = es ++ [⟨a, true⟩] := by
    rw [events, ← failsAt.events, faultPrefix_append es fs transport]
  rw [cut]
  refine ⟨t, ⟨a, true⟩, ht, by rw [trace, List.append_assoc], by rw [trace, List.getLast?_concat], rfl, ?_, fault,
    record_ne_none_of_isTransport transport, resp, phase, position, initialized.trans failsAt.initialized,
    currentLine_of_faulted ht phase, ?_, cfg, host⟩
  · rw [x, failsAt.x_reached (Config.wellFormed.regs_ne wf), Expander.replay_append]
    exact (Expander.after_failed s.cfg _ a).symm
  · rintro l rfl
    exact currentLine.trans failsAt.currentLine_clearline

end Sys2Proof.Machine
end

section
/-! PROOFS. O8, O9 and O47: what a block reset and power-on leave (70_reset_and_hazards.md R250–R252, R254), and that the
invariant holds from there. -/

namespace Sys2Proof.Machine

/-- Settles O8: the step is the block reset, which names every register it sets. -/
theorem blockResetSetsTheBlockRegistersOnly : Obligations.BlockResetSetsTheBlockRegistersOnly :=
  fun _ _ host => ⟨_, step_blockReset host, rfl, rfl, rfl, rfl, rfl, rfl, rfl, rfl, rfl, rfl⟩

/-- An IDLE block whose host makes no move waits (70_reset_and_hazards.md R254, log 8). -/
theorem step_of_no_move {s : State} (idle : s.phase = .idle) (host : s.host = []) : step s = .next s := by
  simp only [step, hostStep, takeRequest, host, idle]

/-- Settles O9: the fields of the power-on state, and no move of the host is waiting there. -/
theorem powerOnHoldsTheResetValuesAndWaits : Obligations.PowerOnHoldsTheResetValuesAndWaits :=
  fun _ => ⟨rfl, rfl, rfl, rfl, rfl, rfl, rfl, rfl, step_of_no_move rfl rfl⟩

/-- Power-on meets the invariant with any well-formed parameters: nothing is traced, and no request is being executed. -/
theorem Inv.powerOn {c : Config} (wf : c.wellFormed = true) : Inv (State.powerOn c) :=
  ⟨wf, rfl, ⟨(nomatch ·), (nomatch ·)⟩, fun _ => rfl, (nomatch ·), fun _ => (nomatch ·)⟩

/-- Settles O47: the default parameters are well-formed. -/
theorem resetMeetsTheInvariant : Obligations.ResetMeetsTheInvariant := Inv.powerOn (by decide)

end Sys2Proof.Machine
end

section
/-! PROOFS. O21: WRPIN beside the other output pins, under either read model (70_reset_and_hazards.md R269). -/

namespace Sys2Proof.Machine

/-- Settles O21: WRPIN leaves `setbit` of the byte read, and that byte shows the latch bit of every output pin. -/
theorem wrpinKeepsTheOtherOutputPinsUnderAnyReadModel :
    Obligations.WrpinKeepsTheOtherOutputPinsUnderAnyReadModel := by
  intro p l s idle ok
  obtain ⟨t, ran, ⟨-, -, -, -, -, x, -, -⟩, -, -⟩ :=
    exec_rmw_completes (i := .wrpin p.val l) (r := .latch) idle rfl (by omega) ok
  have written : t.x.latch = setbit (latchRead s.cfg s.x s.draws) p.val l := by rw [x]; rfl
  obtain ⟨own, others⟩ := bits_of_eq_setbit written
  refine ⟨t, ran, own, by rw [x]; rfl, fun i other output => ?_⟩
  rw [others i other, getLsbD_latchRead_output s.cfg s.draws output]

end Sys2Proof.Machine
end

section
/-! PROOFS. O60: the command after a clear-display (70_reset_and_hazards.md R266, 43_host_operations.md R201). That CLEAR
delivers its two bytes, and that a long enough wait between them has both executed, follows from what SENDBYTE's script
delivers. Where no wait is long enough, draws that always give the same answer to "has the clear-display finished?"
decide it: the LCD is followed byte by byte under such draws. -/

namespace Sys2Proof.Machine

/-! ## CLEAR's script -/

section
variable {c : Config}

theorem playEnd_extra (x : Expander) (n : Nat) : playEnd c x n (extraScript c) = x := by
  unfold extraScript
  split <;> rfl

/-- The optional wait lasts `T_CLEAR_EXTRA`; a wait of 0 would change nothing. -/
theorem observe_extra {x : Expander} (out : x.dir.getLsbD c.pins.e.val = false) (d : Nat → LcdDraw) (n : Nat)
    (l : Lcd) : Lcd.observe c d x (playEvents c x n (extraScript c)) l = l.elapse c (evWait c.tClearExtra) := by
  unfold extraScript
  split
  · next zero =>
    rw [playEvents, observe_nil_of_output _ _ out, zero]
    simp [Lcd.elapse, evWait, clearMicros]
  · exact observe_pause out d n _ l

/-- CLEAR delivers the clear-display and the home command; a controller that had finished executes both if the wait
between them is long enough. -/
theorem observe_clear (regs : c.regDir ≠ c.regLatch) (distinct : c.pins.distinct = true) {x : Expander}
    (drives : Drives c.pins x) (clear : c.cmdClear = 0x01) (d : Nat → LcdDraw) (n : Nat) {l : Lcd}
    (start : l.iface = .fourHi) :
    (Lcd.observe c d x (playEvents c x n (clearScript c)) l).received =
      l.received ++ [(false, 0x01), (false, cursorByte c 0 0)] ∧
    (l.clearing = false → clearMicros ≤ c.tClearExtra * c.tUnit →
      (Lcd.observe c d x (playEvents c x n (clearScript c)) l).executed =
        l.executed ++ [(false, 0x01), (false, cursorByte c 0 0)]) := by
  have between := drives.after_send distinct n c.cmdClear false
  have waited : Drives c.pins (playEnd c x n (sendScript c c.cmdClear false ++ extraScript c)) := by
    rw [playEnd_append, playEnd_extra]; exact between
  rw [clearScript, observe_play_append regs _ _ _ _ _ waited.enable, observe_play_append regs _ _ _ _ _ between.enable,
    observe_extra between.enable]
  obtain ⟨_, _, done, first⟩ := observe_send regs distinct drives d l n c.cmdClear false start
  generalize Lcd.observe c d x _ l = l₁ at first ⊢
  have ready : (l₁.elapse c (evWait c.tClearExtra)).iface = .fourHi := by
    rw [Lcd.elapse_iface, first.iface, clear]
    exact afterByte_of_not_eight (.inr (by decide)) done
  obtain ⟨_, _, again, second⟩ := observe_send regs distinct waited _ _ _ (cursorByte c 0 0) false ready
  refine ⟨by rw [second.received, Lcd.elapse_received, first.received, clear, List.append_assoc]; rfl,
    fun finished long => ?_⟩
  have cleared : again = true := second.finished (by rw [Lcd.elapse_wait long])
  rw [second.executed, Lcd.elapse_executed, first.executed, first.finished finished, cleared, clear,
    List.append_assoc]
  rfl

end

/-! ## The bytes an LCD has received and executed -/

/-- The LCD after the bytes `bs`, each with its RS, when the draw always says `r` of a clear-display in progress. -/
def Lcd.completeAll (r : Bool) (l : Lcd) (bs : List (Bool × Byte)) : Lcd :=
  bs.foldl (fun l p => l.complete p.1 r p.2) l

/-- The two LCDs received and executed the same bytes, and are alike in whether a clear-display may be in progress. -/
structure Lcd.SameBytes (l k : Lcd) : Prop where
  received : l.received = k.received
  executed : l.executed = k.executed
  clearing : l.clearing = k.clearing

theorem Lcd.SameBytes.complete {l k : Lcd} (h : l.SameBytes k) (rs ready : Bool) (b : Byte) :
    (l.complete rs ready b).SameBytes (k.complete rs ready b) := by
  have executes : l.executes ready = k.executes ready := by rw [Lcd.executes, Lcd.executes, h.clearing]
  constructor <;> simp only [Lcd.complete]
  · rw [h.received]
  · rw [h.executed, executes]
  · rw [executes]

theorem Lcd.SameBytes.trans {l k m : Lcd} (h : l.SameBytes k) (j : k.SameBytes m) : l.SameBytes m :=
  ⟨h.received.trans j.received, h.executed.trans j.executed, h.clearing.trans j.clearing⟩

/-- A capture completes a byte under its RS and its draw, or none (41_parallel_bus.md R154). -/
theorem Lcd.capture_sameBytes (l : Lcd) (k : Capture) :
    (l.capture k).SameBytes l ∨ ∃ b, (l.capture k).SameBytes (l.complete k.rs k.ready b) := by
  cases iface : l.iface with
  | eight     => rw [Lcd.capture_eight iface]; exact .inr ⟨_, rfl, rfl, rfl⟩
  | fourHi    => rw [Lcd.capture_fourHi iface]; exact .inl ⟨rfl, rfl, rfl⟩
  | fourLo hi => rw [Lcd.capture_fourLo iface]; exact .inr ⟨_, rfl, rfl, rfl⟩

theorem Lcd.completeAll_received (r : Bool) (l : Lcd) (bs : List (Bool × Byte)) :
    (l.completeAll r bs).received = l.received ++ bs := by
  induction bs generalizing l with
  | nil => exact (List.append_nil _).symm
  | cons p bs ih => exact (ih _).trans (List.append_assoc _ [p] bs)

/-- `l'` is `l` after some bytes, the draw always saying `r`. -/
def Lcd.Follows (r : Bool) (l l' : Lcd) : Prop := ∃ bs, l'.SameBytes (l.completeAll r bs)

section
variable {r : Bool} {l l' : Lcd}

theorem Lcd.Follows.refl (r : Bool) (l : Lcd) : l.Follows r l := ⟨[], rfl, rfl, rfl⟩

theorem Lcd.Follows.capture (h : l.Follows r l') {k : Capture} (hk : k.ready = r) : l.Follows r (l'.capture k) := by
  obtain ⟨bs, same⟩ := h
  obtain silent | ⟨b, byte⟩ := l'.capture_sameBytes k
  · exact ⟨bs, silent.trans same⟩
  · rw [hk] at byte
    refine ⟨bs ++ [(k.rs, b)], byte.trans ?_⟩
    rw [Lcd.completeAll, List.foldl_append]
    exact same.complete k.rs r b

theorem Lcd.Follows.captureAll (h : l.Follows r l') {ks : List Capture} (hk : ∀ k ∈ ks, k.ready = r) :
    l.Follows r (l'.captureAll ks) := by
  induction ks generalizing l' with
  | nil => exact h
  | cons k ks ih =>
    obtain ⟨first, rest⟩ := List.forall_mem_cons.mp hk
    exact ih (h.capture first) rest

/-- What was executed is told by what was received. -/
theorem Lcd.Follows.executed (h : l.Follows r l') {bs : List (Bool × Byte)} (received : l'.received = l.received ++ bs) :
    l'.executed = (l.completeAll r bs).executed := by
  obtain ⟨cs, same⟩ := h
  have all := same.received
  rw [received, Lcd.completeAll_received] at all
  rw [List.append_cancel_left all]
  exact same.executed

end

/-! ## Draws that always say the same, and waits too short to end a clear-display -/

/-- The draw that adds no capture, and says `r` of a clear-display in progress. -/
def steadyDraw (r : Bool) : LcdDraw :=
  { idle := [], settle := { rs := false, nib := 0, low := 0, ready := r }, stray := none }

theorem idleCaptures_steadyDraw (p : PinMap) (x : Expander) (r : Bool) : idleCaptures p x (steadyDraw r) = [] := by
  unfold idleCaptures
  split <;> rfl

theorem ready_of_mem_captures_steadyDraw (p : PinMap) (x y : Expander) (r : Bool) :
    ∀ k ∈ captures p x y (steadyDraw r), k.ready = r := by
  intro k hk
  unfold captures at hk
  split at hk
  · rw [List.mem_singleton.mp hk]; rfl
  all_goals exact nomatch hk

theorem minimumMicros_cons (c : Config) (e : Event) (es : List Event) :
    minimumMicros c (e :: es) = minimumMicros c [e] + minimumMicros c es := by
  rw [minimumMicros, ← List.singleton_append, waitUnits_append, Nat.add_mul, minimumMicros, minimumMicros]

/-- A wait shorter than a clear-display ends none (70_reset_and_hazards.md R266). -/
theorem Lcd.elapse_of_short {c : Config} {e : Event} (short : minimumMicros c [e] < clearMicros) (l : Lcd) :
    l.elapse c e = l := by
  obtain ⟨action, failed⟩ := e
  cases action with
  | rd | wr | wb => rfl
  | wait n =>
    have notLong : ¬ clearMicros ≤ n * c.tUnit := Nat.not_le.mpr short
    exact if_neg notLong

/-- Under steady draws, an LCD whose waits are together shorter than a clear-display is followed byte by byte. -/
theorem Lcd.Follows.observe {c : Config} {r : Bool} {l l' : Lcd} (h : l.Follows r l') (x : Expander) {es : List Event}
    (short : minimumMicros c es < clearMicros) : l.Follows r (Lcd.observe c (fun _ => steadyDraw r) x es l') := by
  induction es generalizing x l' with
  | nil => rw [Lcd.observe_nil, idleCaptures_steadyDraw]; exact h
  | cons e es ih =>
    rw [minimumMicros_cons] at short
    rw [Lcd.observe_cons, idleCaptures_steadyDraw, Lcd.elapse_of_short (by omega)]
    exact ih (h.captureAll (ready_of_mem_captures_steadyDraw _ _ _ r)) _ (by omega)

/-- A controller that has finished executes a clear-display, and the byte after it as the draw says. -/
theorem Lcd.completeAll_after_clear {l : Lcd} (finished : l.clearing = false) (r : Bool) (p : Bool × Byte) :
    (l.completeAll r [(false, 0x01), p]).executed = l.executed ++ (false, 0x01) :: if r then [p] else [] := by
  rw [Lcd.completeAll, List.foldl_cons, Lcd.complete_of_finished finished]
  cases r <;> simp [Lcd.complete, Lcd.executes, isClear]

/-- With the default parameters CLEAR waits 408 time units in all. -/
theorem minimumMicros_clear_default (x : Expander) (n : Nat) :
    minimumMicros defaultConfig (playEvents defaultConfig x n (clearScript defaultConfig)) = 408 := by
  simp only [minimumMicros, clearScript, playEvents_append, waitUnits_append, waitUnits_sendScript,
    waitUnits_extraScript]
  rfl

/-! ## CLEAR -/

/-- Settles O60: the new events are those of CLEAR's script. With the default parameters steady draws choose the
outcome. -/
theorem theCommandAfterAClearIsExecutedOnlyAfterAWait :
    Obligations.TheCommandAfterAClearIsExecutedOnlyAfterAWait := by
  intro s l idle initialized ok wf output low start finished clear
  obtain ⟨t, h, -, -, done, -⟩ := clearSendsClearThenHome s idle (by rw [initialized]; exact ok)
  rw [initialized] at done
  have sent := fun d => observe_clear (Config.wellFormed.regs_ne wf) (Config.wellFormed.distinct wf) ⟨output, low⟩
    clear d s.draws start
  refine ⟨t, h, ?_⟩
  rw [newEvents_of_completes done]
  refine ⟨fun d => (sent d).left, fun long d => (sent d).right finished long,
    fun defaults r => ⟨fun _ => steadyDraw r, ?_⟩⟩
  have short : minimumMicros s.cfg (playEvents s.cfg s.x s.draws (clearScript s.cfg)) < clearMicros := by
    rw [defaults, minimumMicros_clear_default]; decide
  exact (((Lcd.Follows.refl r l).observe s.x short).executed (sent _).left).trans
    (Lcd.completeAll_after_clear finished r _)

end Sys2Proof.Machine
end
